-- ==== Sys2Proof/Word.lean ====
section
/-! DEFINITION. The machine's bit vectors (00_scope.md R7, R8, R10): all unsigned. -/

namespace Sys2Proof

/-- A byte: the contents of a register `V[i]`, a timer, or a memory cell. -/
abbrev Byte := BitVec 8

/-- A 16-bit value: the instruction word, `I`, `pc`, a stack slot. -/
abbrev Word := BitVec 16

/-- A 4-bit field: a register number `x` or `y`, or the row count `n`. -/
abbrev Nibble := BitVec 4

/-- A 12-bit address field `nnn`. -/
abbrev Addr := BitVec 12

end Sys2Proof
end

