-- ==== Sys2Proof/Syntax.lean ====
section
/-! DEFINITION. The 34 instructions of the opcode map (30_encoding.md R76), one constructor per row
of spec/opcode_table.json in the table's order, each carrying the fields its format names (R73). -/

namespace Sys2Proof

/-- The instruction set. `x` and `y` are register numbers, `kk` a byte, `nnn` an address, `n` a row
count (00_scope.md R10). -/
inductive Instr where
  /-- `00E0` CLS, clear screen. -/
  | cls
  /-- `00EE` RET, return from subroutine. -/
  | ret
  /-- `1nnn` JP nnn, jump. -/
  | jp (nnn : Addr)
  /-- `2nnn` CALL nnn, call subroutine. -/
  | call (nnn : Addr)
  /-- `3xkk` SE Vx, kk, skip if register equals byte. -/
  | seByte (x : Nibble) (kk : Byte)
  /-- `4xkk` SNE Vx, kk, skip if register differs from byte. -/
  | sneByte (x : Nibble) (kk : Byte)
  /-- `5xy0` SE Vx, Vy, skip if registers equal. -/
  | seReg (x y : Nibble)
  /-- `6xkk` LD Vx, kk, load immediate. -/
  | ldByte (x : Nibble) (kk : Byte)
  /-- `7xkk` ADD Vx, kk, add immediate. -/
  | addByte (x : Nibble) (kk : Byte)
  /-- `8xy0` LD Vx, Vy, copy. -/
  | ldReg (x y : Nibble)
  /-- `8xy1` OR Vx, Vy. -/
  | orReg (x y : Nibble)
  /-- `8xy2` AND Vx, Vy. -/
  | andReg (x y : Nibble)
  /-- `8xy3` XOR Vx, Vy. -/
  | xorReg (x y : Nibble)
  /-- `8xy4` ADD Vx, Vy, add with carry out. -/
  | addReg (x y : Nibble)
  /-- `8xy5` SUB Vx, Vy, subtract. -/
  | subReg (x y : Nibble)
  /-- `8xy6` SHR Vx, shift right by one; `y` is decoded and ignored. -/
  | shr (x y : Nibble)
  /-- `8xy7` SUBN Vx, Vy, subtract reversed. -/
  | subnReg (x y : Nibble)
  /-- `8xyE` SHL Vx, shift left by one; `y` is decoded and ignored. -/
  | shl (x y : Nibble)
  /-- `9xy0` SNE Vx, Vy, skip if registers differ. -/
  | sneReg (x y : Nibble)
  /-- `Annn` LD I, nnn, load index. -/
  | ldI (nnn : Addr)
  /-- `Bnnn` JP V0, nnn, jump with offset. -/
  | jpV0 (nnn : Addr)
  /-- `Cxkk` RND Vx, kk, random AND. -/
  | rnd (x : Nibble) (kk : Byte)
  /-- `Dxyn` DRW Vx, Vy, n, draw sprite. -/
  | drw (x y n : Nibble)
  /-- `Ex9E` SKP Vx, skip if key down. -/
  | skp (x : Nibble)
  /-- `ExA1` SKNP Vx, skip if key up. -/
  | sknp (x : Nibble)
  /-- `Fx07` LD Vx, DT, read delay timer. -/
  | ldVxDT (x : Nibble)
  /-- `Fx0A` LD Vx, K, await keypress. -/
  | ldVxK (x : Nibble)
  /-- `Fx15` LD DT, Vx, set delay timer. -/
  | ldDTVx (x : Nibble)
  /-- `Fx18` LD ST, Vx, set sound timer. -/
  | ldSTVx (x : Nibble)
  /-- `Fx1E` ADD I, Vx, add to index. -/
  | addI (x : Nibble)
  /-- `Fx29` LD F, Vx, font glyph address. -/
  | ldF (x : Nibble)
  /-- `Fx33` LD B, Vx, BCD decompose. -/
  | ldB (x : Nibble)
  /-- `Fx55` LD [I], Vx, store registers. -/
  | storeRegs (x : Nibble)
  /-- `Fx65` LD Vx, [I], load registers. -/
  | loadRegs (x : Nibble)
  deriving DecidableEq, Repr

end Sys2Proof
end

