-- ==== Sys2Proof/Decode.lean ====
section
/-! DEFINITION. The six fields of a word (30_encoding.md R72), the decoder (R75, R76, R78, R82), the
opcode map itself as rows of match and mask (R76), and the encoder (R73, R76). -/

namespace Sys2Proof

/-- `op = w[15:12]`, the group selector. -/
def opField (w : Word) : Nibble := w.extractLsb' 12 4

/-- `x = w[11:8]`. -/
def xField (w : Word) : Nibble := w.extractLsb' 8 4

/-- `y = w[7:4]`. -/
def yField (w : Word) : Nibble := w.extractLsb' 4 4

/-- `n = w[3:0]`. -/
def nField (w : Word) : Nibble := w.extractLsb' 0 4

/-- `kk = w[7:0]`. -/
def kkField (w : Word) : Byte := w.extractLsb' 0 8

/-- `nnn = w[11:0]`. -/
def nnnField (w : Word) : Addr := w.extractLsb' 0 12

/-- What decoding a word gives (R82): an instruction, or `unknown(w)`. -/
inductive Decoded where
  | instr (i : Instr)
  | unknown (w : Word)
  deriving DecidableEq, Repr

/-- Group `0`: the whole low 12 bits select (R75, R78). -/
def decodeGroup0 (w : Word) : Decoded :=
  if nnnField w = 0x0E0#12 then .instr .cls
  else if nnnField w = 0x0EE#12 then .instr .ret
  else .unknown w

/-- Group `8`: the low nibble selects (R75). -/
def decodeGroup8 (w : Word) : Decoded :=
  if nField w = 0x0#4 then .instr (.ldReg (xField w) (yField w))
  else if nField w = 0x1#4 then .instr (.orReg (xField w) (yField w))
  else if nField w = 0x2#4 then .instr (.andReg (xField w) (yField w))
  else if nField w = 0x3#4 then .instr (.xorReg (xField w) (yField w))
  else if nField w = 0x4#4 then .instr (.addReg (xField w) (yField w))
  else if nField w = 0x5#4 then .instr (.subReg (xField w) (yField w))
  else if nField w = 0x6#4 then .instr (.shr (xField w) (yField w))
  else if nField w = 0x7#4 then .instr (.subnReg (xField w) (yField w))
  else if nField w = 0xE#4 then .instr (.shl (xField w) (yField w))
  else .unknown w

/-- Group `E`: the low byte selects (R75). -/
def decodeGroupE (w : Word) : Decoded :=
  if kkField w = 0x9E#8 then .instr (.skp (xField w))
  else if kkField w = 0xA1#8 then .instr (.sknp (xField w))
  else .unknown w

/-- Group `F`: the low byte selects (R75). -/
def decodeGroupF (w : Word) : Decoded :=
  if kkField w = 0x07#8 then .instr (.ldVxDT (xField w))
  else if kkField w = 0x0A#8 then .instr (.ldVxK (xField w))
  else if kkField w = 0x15#8 then .instr (.ldDTVx (xField w))
  else if kkField w = 0x18#8 then .instr (.ldSTVx (xField w))
  else if kkField w = 0x1E#8 then .instr (.addI (xField w))
  else if kkField w = 0x29#8 then .instr (.ldF (xField w))
  else if kkField w = 0x33#8 then .instr (.ldB (xField w))
  else if kkField w = 0x55#8 then .instr (.storeRegs (xField w))
  else if kkField w = 0x65#8 then .instr (.loadRegs (xField w))
  else .unknown w

/-- Decode and dispatch (40_cycle_engine.md R94; 30_encoding.md R75, R76): total on every word, with
every printed digit of a pattern matched (R78, the spec's decision D4, log entry 8). -/
def decodeWord (w : Word) : Decoded :=
  if opField w = 0x0#4 then decodeGroup0 w
  else if opField w = 0x1#4 then .instr (.jp (nnnField w))
  else if opField w = 0x2#4 then .instr (.call (nnnField w))
  else if opField w = 0x3#4 then .instr (.seByte (xField w) (kkField w))
  else if opField w = 0x4#4 then .instr (.sneByte (xField w) (kkField w))
  else if opField w = 0x5#4 then
    (if nField w = 0x0#4 then .instr (.seReg (xField w) (yField w)) else .unknown w)
  else if opField w = 0x6#4 then .instr (.ldByte (xField w) (kkField w))
  else if opField w = 0x7#4 then .instr (.addByte (xField w) (kkField w))
  else if opField w = 0x8#4 then decodeGroup8 w
  else if opField w = 0x9#4 then
    (if nField w = 0x0#4 then .instr (.sneReg (xField w) (yField w)) else .unknown w)
  else if opField w = 0xA#4 then .instr (.ldI (nnnField w))
  else if opField w = 0xB#4 then .instr (.jpV0 (nnnField w))
  else if opField w = 0xC#4 then .instr (.rnd (xField w) (kkField w))
  else if opField w = 0xD#4 then .instr (.drw (xField w) (yField w) (nField w))
  else if opField w = 0xE#4 then decodeGroupE w
  else decodeGroupF w

/-- The word at two consecutive bytes, the lower address holding bits 15..8 (R71). -/
def wordOfBytes (hi lo : Byte) : Word := hi ++ lo

/-- The byte a word stores at the lower address: `w[15:8]` (R71). -/
def hiByte (w : Word) : Byte := w.extractLsb' 8 8

/-- The byte a word stores at the higher address: `w[7:0]` (R71). -/
def loByte (w : Word) : Byte := w.extractLsb' 0 8

/-- Why a byte sequence does not begin with an instruction. -/
inductive DecodeError where
  /-- Fewer than the two bytes of an instruction word (R70) are there. -/
  | truncated
  /-- The word matches no row of the opcode map (R77). -/
  | unknownOpcode (w : Word)
  deriving DecidableEq, Repr

/-- The first instruction of a byte sequence and the bytes after it: total, rejecting by name. -/
def decodeBytes : List Byte → Except DecodeError (Instr × List Byte)
  | hi :: lo :: rest =>
    match decodeWord (wordOfBytes hi lo) with
    | .instr i => .ok (i, rest)
    | .unknown w => .error (.unknownOpcode w)
  | _ => .error .truncated

/-- The decoder on a word numbered as spec/opcode_table.json numbers it: the low `nbits` bits of `w`,
the bits above them 0, laid out high byte first as R71 stores a word. -/
def decodeTableWord (nbits w : Nat) : Option Instr :=
  let word := BitVec.ofNat 16 (w % 2 ^ nbits)
  match decodeBytes [hiByte word, loByte word] with
  | .ok (i, _) => some i
  | .error _ => none

/-- One row of the opcode map: a word `w` is the row's instruction when `w &&& mask = pattern`. -/
structure OpcodeRow where
  pattern : Word
  mask : Word
  deriving DecidableEq, Repr

/-- Rows 1 to 17 of R76. -/
def opcodeRowsLow : List OpcodeRow :=
  [⟨0x00E0#16, 0xFFFF#16⟩, ⟨0x00EE#16, 0xFFFF#16⟩, ⟨0x1000#16, 0xF000#16⟩, ⟨0x2000#16, 0xF000#16⟩,
   ⟨0x3000#16, 0xF000#16⟩, ⟨0x4000#16, 0xF000#16⟩, ⟨0x5000#16, 0xF00F#16⟩, ⟨0x6000#16, 0xF000#16⟩,
   ⟨0x7000#16, 0xF000#16⟩, ⟨0x8000#16, 0xF00F#16⟩, ⟨0x8001#16, 0xF00F#16⟩, ⟨0x8002#16, 0xF00F#16⟩,
   ⟨0x8003#16, 0xF00F#16⟩, ⟨0x8004#16, 0xF00F#16⟩, ⟨0x8005#16, 0xF00F#16⟩, ⟨0x8006#16, 0xF00F#16⟩,
   ⟨0x8007#16, 0xF00F#16⟩]

/-- Rows 18 to 34 of R76. -/
def opcodeRowsHigh : List OpcodeRow :=
  [⟨0x800E#16, 0xF00F#16⟩, ⟨0x9000#16, 0xF00F#16⟩, ⟨0xA000#16, 0xF000#16⟩, ⟨0xB000#16, 0xF000#16⟩,
   ⟨0xC000#16, 0xF000#16⟩, ⟨0xD000#16, 0xF000#16⟩, ⟨0xE09E#16, 0xF0FF#16⟩, ⟨0xE0A1#16, 0xF0FF#16⟩,
   ⟨0xF007#16, 0xF0FF#16⟩, ⟨0xF00A#16, 0xF0FF#16⟩, ⟨0xF015#16, 0xF0FF#16⟩, ⟨0xF018#16, 0xF0FF#16⟩,
   ⟨0xF01E#16, 0xF0FF#16⟩, ⟨0xF029#16, 0xF0FF#16⟩, ⟨0xF033#16, 0xF0FF#16⟩, ⟨0xF055#16, 0xF0FF#16⟩,
   ⟨0xF065#16, 0xF0FF#16⟩]

/-- The opcode map (R76), in the source's table order. -/
def opcodeRows : List OpcodeRow := opcodeRowsLow ++ opcodeRowsHigh

/-- The word is the row's instruction (R76). -/
def OpcodeRow.accepts (r : OpcodeRow) (w : Word) : Bool := w &&& r.mask = r.pattern

/-- The number of the instruction's row in the opcode map, counted from 0 (R76 counts from 1). -/
def Instr.rowIndex : Instr → Nat
  | .cls => 0
  | .ret => 1
  | .jp _ => 2
  | .call _ => 3
  | .seByte _ _ => 4
  | .sneByte _ _ => 5
  | .seReg _ _ => 6
  | .ldByte _ _ => 7
  | .addByte _ _ => 8
  | .ldReg _ _ => 9
  | .orReg _ _ => 10
  | .andReg _ _ => 11
  | .xorReg _ _ => 12
  | .addReg _ _ => 13
  | .subReg _ _ => 14
  | .shr _ _ => 15
  | .subnReg _ _ => 16
  | .shl _ _ => 17
  | .sneReg _ _ => 18
  | .ldI _ => 19
  | .jpV0 _ => 20
  | .rnd _ _ => 21
  | .drw _ _ _ => 22
  | .skp _ => 23
  | .sknp _ => 24
  | .ldVxDT _ => 25
  | .ldVxK _ => 26
  | .ldDTVx _ => 27
  | .ldSTVx _ => 28
  | .addI _ => 29
  | .ldF _ => 30
  | .ldB _ => 31
  | .storeRegs _ => 32
  | .loadRegs _ => 33

/-- Format `XK` (R73): `op x kk`. -/
def formatXK (op x : Nibble) (kk : Byte) : Word := op ++ x ++ kk

/-- Formats `XY` and `XYN` (R73): `op x y n`. -/
def formatXYN (op x y n : Nibble) : Word := op ++ x ++ y ++ n

/-- Format `A` (R73): `op nnn`. -/
def formatA (op : Nibble) (nnn : Addr) : Word := op ++ nnn

/-- The word of an instruction (R73, R76). -/
def encode : Instr → Word
  | .cls => 0x00E0#16
  | .ret => 0x00EE#16
  | .jp nnn => formatA 0x1#4 nnn
  | .call nnn => formatA 0x2#4 nnn
  | .seByte x kk => formatXK 0x3#4 x kk
  | .sneByte x kk => formatXK 0x4#4 x kk
  | .seReg x y => formatXYN 0x5#4 x y 0x0#4
  | .ldByte x kk => formatXK 0x6#4 x kk
  | .addByte x kk => formatXK 0x7#4 x kk
  | .ldReg x y => formatXYN 0x8#4 x y 0x0#4
  | .orReg x y => formatXYN 0x8#4 x y 0x1#4
  | .andReg x y => formatXYN 0x8#4 x y 0x2#4
  | .xorReg x y => formatXYN 0x8#4 x y 0x3#4
  | .addReg x y => formatXYN 0x8#4 x y 0x4#4
  | .subReg x y => formatXYN 0x8#4 x y 0x5#4
  | .shr x y => formatXYN 0x8#4 x y 0x6#4
  | .subnReg x y => formatXYN 0x8#4 x y 0x7#4
  | .shl x y => formatXYN 0x8#4 x y 0xE#4
  | .sneReg x y => formatXYN 0x9#4 x y 0x0#4
  | .ldI nnn => formatA 0xA#4 nnn
  | .jpV0 nnn => formatA 0xB#4 nnn
  | .rnd x kk => formatXK 0xC#4 x kk
  | .drw x y n => formatXYN 0xD#4 x y n
  | .skp x => formatXK 0xE#4 x 0x9E#8
  | .sknp x => formatXK 0xE#4 x 0xA1#8
  | .ldVxDT x => formatXK 0xF#4 x 0x07#8
  | .ldVxK x => formatXK 0xF#4 x 0x0A#8
  | .ldDTVx x => formatXK 0xF#4 x 0x15#8
  | .ldSTVx x => formatXK 0xF#4 x 0x18#8
  | .addI x => formatXK 0xF#4 x 0x1E#8
  | .ldF x => formatXK 0xF#4 x 0x29#8
  | .ldB x => formatXK 0xF#4 x 0x33#8
  | .storeRegs x => formatXK 0xF#4 x 0x55#8
  | .loadRegs x => formatXK 0xF#4 x 0x65#8

end Sys2Proof
end

