-- ==== Sys2Proof/Machine/Flags.lean ====
section
/-! DEFINITION. Every flag computation (10_state.md R21): what the seven flag writers put into `VF`,
and the arithmetic results beside them (42_alu.md R130). -/

namespace Sys2Proof.Machine

/-- A flag as the byte written to `VF`: 1 or 0. -/
def flagByte (b : Bool) : Byte := if b then 1 else 0

/-- Carry: the true sum exceeds 255 (42_alu.md R137). -/
def carryOut (a b : Byte) : Bool := a.toNat + b.toNat > 255

/-- No borrow: minuend at least the subtrahend, equality included (42_alu.md R138, R140). -/
def noBorrow (minuend subtrahend : Byte) : Bool := minuend.toNat ≥ subtrahend.toNat

/-- The bit a right shift moves out (42_alu.md R139). -/
def shrOut (a : Byte) : Bool := a.getLsbD 0

/-- The bit a left shift moves out (42_alu.md R141). -/
def shlOut (a : Byte) : Bool := a.getLsbD 7

/-- The untruncated index sum passes the top of memory (43_index_memory.md R152). -/
def indexPassed (i : Word) (v : Byte) : Bool := i.toNat + v.toNat > 0xFFF

/-- The sum modulo 256. -/
def addByte (a b : Byte) : Byte := BitVec.ofNat 8 (a.toNat + b.toNat)

/-- The difference modulo 256. -/
def subByte (a b : Byte) : Byte := a - b

/-- Shift right by one, a 0 coming in (42_alu.md R130, R139). -/
def shrByte (a : Byte) : Byte := a >>> 1

/-- Shift left by one, a 0 coming in (42_alu.md R130, R141). -/
def shlByte (a : Byte) : Byte := a <<< 1

/-- The index sum modulo 2^16 (10_state.md R22, the spec's decision D18). -/
def addIndex (i : Word) (v : Byte) : Word := BitVec.ofNat 16 (i.toNat + v.toNat)

/-- The three decimal digits of a byte, hundreds first (43_index_memory.md R154). -/
def bcdDigits (v : Byte) : List Byte :=
  [BitVec.ofNat 8 (v.toNat / 100), BitVec.ofNat 8 (v.toNat / 10 % 10), BitVec.ofNat 8 (v.toNat % 10)]

/-- A timer goes down by 1 if it is not 0 (40_cycle_engine.md R97). -/
def tickDown (t : Byte) : Byte := if t.toNat > 0 then t - 1 else t

end Sys2Proof.Machine
end

