-- ==== Sys2Proof/Config.lean ====
section
/-! DEFINITION. What an implementation of the block fixes (00_scope.md R5) and the one free value of
the machine (00_scope.md R14). The defaults stand in Sys2Proof/Machine/Defaults.lean. -/

namespace Sys2Proof

/-- The implementation parameters of 00_scope.md R5. `dispW_ge` and `dispH_ge` are R5's requirement
on the display size (92_eei_decisions.md D1; 93_implementation_defined.md U12 refuses any other). -/
structure Config where
  /-- `DISP_W`, the number of pixel columns. -/
  dispW : Nat
  /-- `DISP_H`, the number of pixel rows. -/
  dispH : Nat
  /-- `FONT[0..79]`, sixteen glyphs of five bytes (10_state.md R29). -/
  font : Vector Byte 80
  /-- `UNKNOWN_OPCODE_ADVANCE`: an unknown opcode advances `pc` by 2 (40_cycle_engine.md R96). -/
  unknownAdvance : Bool
  dispW_ge : 8 ≤ dispW
  dispH_ge : 1 ≤ dispH
  deriving DecidableEq, Repr

/-- `draw8()` (00_scope.md R14): the free byte of the k-th draw. It has no body, so nothing can be
proved of its values: a statement holds for every byte it can be (log entry 5). -/
opaque Config.drawByte : Nat → Byte

end Sys2Proof
end

