-- ==== Sys2Proof/Machine/Defaults.lean ====
section
/-! DEFINITION. The defaults that 00_scope.md R5 recommends for the block's parameters, and the blank
display. A statement about every state holds for every value of the parameters; only `State.reset`
takes these. -/

namespace Sys2Proof.Machine

/-- Glyphs 0 to 7 of the default font (10_state.md R29). PRESUMED: the spec marks the bytes as general
knowledge (log entry 3). Unsafe. -/
def fontLow : List Byte :=
  [0xF0, 0x90, 0x90, 0x90, 0xF0,  0x20, 0x60, 0x20, 0x20, 0x70,
   0xF0, 0x10, 0xF0, 0x80, 0xF0,  0xF0, 0x10, 0xF0, 0x10, 0xF0,
   0x90, 0x90, 0xF0, 0x10, 0x10,  0xF0, 0x80, 0xF0, 0x10, 0xF0,
   0xF0, 0x80, 0xF0, 0x90, 0xF0,  0xF0, 0x10, 0x20, 0x40, 0x40]

/-- Glyphs 8 to F of the default font (10_state.md R29). PRESUMED, as `fontLow` (log entry 3). Unsafe. -/
def fontHigh : List Byte :=
  [0xF0, 0x90, 0xF0, 0x90, 0xF0,  0xF0, 0x90, 0xF0, 0x10, 0xF0,
   0xF0, 0x90, 0xF0, 0x90, 0x90,  0xE0, 0x90, 0xE0, 0x90, 0xE0,
   0xF0, 0x80, 0x80, 0x80, 0xF0,  0xE0, 0x90, 0x90, 0x90, 0xE0,
   0xF0, 0x80, 0xF0, 0x80, 0xF0,  0xF0, 0x80, 0xF0, 0x80, 0x80]

/-- The default `FONT[0..79]` (10_state.md R29). -/
def defaultFont : Vector Byte 80 := ⟨(fontLow ++ fontHigh).toArray, by decide⟩

/-- The default parameters of 00_scope.md R5: 64 columns, 32 rows, the default font, and an unknown
opcode that advances `pc`. PRESUMED for the display size (general knowledge, log entry 2); the spec's
own recommendation for `unknownAdvance` (log entry 4). Unsafe. -/
def defaultConfig : Config :=
  { dispW := 64, dispH := 32, font := defaultFont, unknownAdvance := true,
    dispW_ge := by decide, dispH_ge := by decide }

/-- A display of `h` rows of `w` pixels, every pixel 0. -/
def blankDisplay (w h : Nat) : List (List Bool) := List.replicate h (List.replicate w false)

end Sys2Proof.Machine
end

