-- ==== Sys2Proof/Machine/Grid.lean ====
section
/-! DEFINITION. The display buffer (10_state.md R30) and plotting a sprite on it by exclusive-or
(44_display.md R170, R172, R173). A grid is a list of rows of pixels; a drawing carries the collision
found so far beside the grid. -/

namespace Sys2Proof.Machine

/-- `disp[r][c]`; a place outside the grid is off. -/
def Grid.pixel (g : List (List Bool)) (r c : Nat) : Bool := ((g[r]?.getD [])[c]?).getD false

/-- `disp[r][c] <- disp[r][c] xor 1`. -/
def Grid.toggle (g : List (List Bool)) (r c : Nat) : List (List Bool) :=
  g.modify r (fun row => row.modify c (fun p => !p))

/-- The grid has `h` rows of `w` pixels. -/
abbrev Grid.sized (w h : Nat) (g : List (List Bool)) : Prop :=
  g.length = h ∧ ∀ row ∈ g, row.length = w

/-- Plot one set sprite bit at column `px`, row `py`: clipped off the buffer (R173), else a collision
if the pixel was 1, and the pixel toggled (R172). -/
def Grid.plotPixel (w h px py : Nat) (d : List (List Bool) × Bool) : List (List Bool) × Bool :=
  if px < w ∧ py < h then (Grid.toggle d.1 py px, d.2 || Grid.pixel d.1 py px) else d

/-- Bit `7 - c` of a sprite byte belongs to column `c` of the sprite (R170, the spec's decision D24). -/
def Grid.spriteBit (b : Byte) (c : Nat) : Bool := b.getLsbD (7 - c)

/-- Columns `c, c+1, …` of one sprite row, the first `k` of them, on display row `py` (R172). -/
def Grid.plotColumns (w h x0 py : Nat) (b : Byte) :
    Nat → Nat → List (List Bool) × Bool → List (List Bool) × Bool
  | 0, _, d => d
  | k + 1, c, d =>
    Grid.plotColumns w h x0 py b k (c + 1)
      (if Grid.spriteBit b c then Grid.plotPixel w h (x0 + c) py d else d)

/-- The rows of a sprite, one byte each, on display rows `py, py+1, …` (R172). -/
def Grid.plotRows (w h x0 : Nat) : Nat → List Byte → List (List Bool) × Bool → List (List Bool) × Bool
  | _, [], d => d
  | py, b :: rows, d => Grid.plotRows w h x0 (py + 1) rows (Grid.plotColumns w h x0 py b 8 0 d)

end Sys2Proof.Machine
end

