-- ==== Sys2Proof/Machine/Memory.lean ====
section
/-! DEFINITION. The memory array (10_state.md R28; 20_memory.md R50, R51, R57) as a sorted list of the
bytes that differ from the reset contents. -/

namespace Sys2Proof.Machine

/-- What an unlisted address reads as: the reset contents (20_memory.md R51), the font at `0x000` to
`0x04F` and 0 elsewhere. -/
def Memory.unlisted (font : Vector Byte 80) (a : Nat) : Byte :=
  if h : a < 80 then font[a] else 0

/-- `mem[a]` (20_memory.md R57). -/
def Memory.read (font : Vector Byte 80) : List Host.Cell → Nat → Byte
  | [], a => Memory.unlisted font a
  | c :: m, a => if c.1 = a then c.2 else Memory.read font m a

/-- List the byte `b` at `a`, in place of the one listed there, keeping the order. -/
def Memory.insert (a : Nat) (b : Byte) : List Host.Cell → List Host.Cell
  | [] => [(a, b)]
  | c :: m =>
    if c.1 < a then c :: Memory.insert a b m
    else if c.1 = a then (a, b) :: m
    else (a, b) :: c :: m

/-- List nothing at `a`. -/
def Memory.erase (a : Nat) (m : List Host.Cell) : List Host.Cell := m.filter (fun c => c.1 ≠ a)

/-- `mem[a] <- b` (00_scope.md R11), in canonical form. An address above `0xFFF` does not exist; every
guard has excluded it before (20_memory.md R56), and the write does nothing there (log entry 11). -/
def Memory.write (font : Vector Byte 80) (m : List Host.Cell) (a : Nat) (b : Byte) : List Host.Cell :=
  if a < 4096 then
    if b = Memory.unlisted font a then Memory.erase a m else Memory.insert a b m
  else m

/-- The canonical form: addresses strictly rising, all of them in `0x000..0xFFF`, no entry equal to
what an unlisted address reads as. -/
abbrev Memory.wf (font : Vector Byte 80) (m : List Host.Cell) : Prop :=
  m.Pairwise (fun c d => c.1 < d.1) ∧ ∀ c ∈ m, c.1 < 4096 ∧ c.2 ≠ Memory.unlisted font c.1

end Sys2Proof.Machine
end

