-- ==== Sys2Proof/Machine/State.lean ====
section
/-! DEFINITION. The state of the block (10_state.md R20 to R37) as plain data, the fault latch's record,
the result of a cycle, and the state after reset (70_reset_and_hazards.md R230). -/

namespace Sys2Proof.Machine

/-- The five fault causes (60_exceptions.md R202). They are latched in the state, not stops of the
model: the machine goes on as a halted machine (R201). -/
inductive FaultCause where
  /-- Code 1, any cycle: `pc > 0xFFE` at the fetch (R203). -/
  | fetchOutOfRange
  /-- Code 2, `2nnn`: `sp = 16` (R204). -/
  | stackOverflow
  /-- Code 3, `00EE`: `sp = 0` (R205). -/
  | stackUnderflow
  /-- Code 4, `Dxyn Fx33 Fx55 Fx65`: the highest address touched is above `0xFFF` (R206). -/
  | memOutOfRange
  /-- Code 5, `Ex9E ExA1`: `V[x] > 15` (R207). -/
  | keyOutOfRange
  deriving DecidableEq, Repr

/-- The code of a cause (60_exceptions.md R202). -/
def FaultCause.code : FaultCause → Nat
  | .fetchOutOfRange => 1
  | .stackOverflow => 2
  | .stackUnderflow => 3
  | .memOutOfRange => 4
  | .keyOutOfRange => 5

/-- What the fault latch holds (10_state.md R33): the cause, `pc` at the start of the faulting cycle,
and the fetched word (`none` for a fetch fault). -/
structure FaultRecord where
  cause : FaultCause
  atPc : Word
  word : Option Word
  deriving DecidableEq, Repr

/-- The result of a cycle (40_cycle_engine.md R100): an output, not state (10_state.md R36). -/
inductive CycleResult where
  | ok
  | stalled
  | unknownOpcode (w atPc : Word)
  | fault (cause : FaultCause)
  | halted
  deriving DecidableEq, Repr

/-- The state of the block. The first twelve fields are exactly the list of 10_state.md R37; `draws`
and `cfg` are the model's own. -/
structure State where
  /-- The general registers `V[0..15]`; `V[15]` is the flag register `VF` (R20, R21). -/
  V : Vector Byte 16
  /-- The index register (R22). -/
  I : Word
  /-- The program counter (R23). -/
  pc : Word
  /-- The sixteen return-address slots (R24). -/
  stack : Vector Word 16
  /-- The number of return addresses held, 0 to 16 (R25). -/
  sp : Fin 17
  /-- The delay timer (R26). -/
  DT : Byte
  /-- The sound timer (R27). -/
  ST : Byte
  /-- The memory array (R28): address and byte, sorted by address, only the bytes that differ from
  the reset contents (`Memory.wf`). -/
  mem : List Host.Cell
  /-- The display buffer (R30), row by row from the top, each row from the left. -/
  disp : List (List Bool)
  /-- The frame-changed flag (R31). -/
  fc : Bool
  /-- The key state (R32): true when the key is down. -/
  key : Vector Bool 16
  /-- The fault latch (R33). -/
  fault : Option FaultRecord
  /-- The model's own: which draw of the free byte comes next (00_scope.md R14; log entry 5). -/
  draws : Nat
  /-- The model's own: the parameters of 00_scope.md R5, constant for the machine (log entry 1). -/
  cfg : Config
  deriving DecidableEq, Repr

/-- Reasons for which the model stops: none. Nobody raises one. Every fault of the spec is latched in
the state and has a successor (60_exceptions.md R201; 93_implementation_defined.md U22), so no step of
this machine ends in a fault of the model (log entry 9). Safe. -/
inductive Fault
  deriving DecidableEq, Repr

/-- Reasons for which the model refuses. -/
inductive Refusal where
  /-- Raised by `exec` for an instruction that has no meaning yet; no arm raises it now. Safe. -/
  | notModelled (mnemonic : String)
  deriving DecidableEq, Repr

/-- The reset state of a block with the parameters `cfg` (70_reset_and_hazards.md R230), the next
draw being number `draws` (reset has no effect on later draws, 10_state.md R34). -/
def State.resetWith (cfg : Config) (draws : Nat) : State :=
  { V := Vector.replicate 16 0
    I := 0
    pc := 0x200
    stack := Vector.replicate 16 0
    sp := 0
    DT := 0
    ST := 0
    mem := []
    disp := blankDisplay cfg.dispW cfg.dispH
    fc := false
    key := Vector.replicate 16 false
    fault := none
    draws := draws
    cfg := cfg }

/-- The machine right after reset, with the default parameters (log entries 1 to 5). -/
def State.reset : State := State.resetWith defaultConfig 0

end Sys2Proof.Machine
end

