-- ==== Sys2Proof/Machine/Ops.lean ====
section
/-! DEFINITION. The named operations over registers, memory, stack, timers, display, keys and the fault
latch; the one operation by which an instruction faults; and the endings of an instruction
(40_cycle_engine.md R93). -/

namespace Sys2Proof.Machine

/-- `V[r]` (10_state.md R20). -/
def State.readV (s : State) (r : Nibble) : Byte := s.V[r.toNat]'r.isLt

/-- `V[r] <- b` (10_state.md R20). -/
def State.writeV (s : State) (r : Nibble) (b : Byte) : State :=
  { s with V := s.V.set r.toNat b r.isLt }

/-- `V[15] <- 1` or `0` (10_state.md R21). -/
def State.writeVF (s : State) (flag : Bool) : State := s.writeV 0xF#4 (flagByte flag)

/-- `I <- v`. -/
def State.writeI (s : State) (v : Word) : State := { s with I := v }

/-- `pc <- target`. -/
def State.writePc (s : State) (target : Word) : State := { s with pc := target }

/-- `pc <- pc + k`, in 16 bits (40_cycle_engine.md R93). -/
def State.advance (s : State) (k : Word) : State := { s with pc := s.pc + k }

/-- `DT <- v`. -/
def State.writeDT (s : State) (v : Byte) : State := { s with DT := v }

/-- `ST <- v`. -/
def State.writeST (s : State) (v : Byte) : State := { s with ST := v }

/-- `stack[sp] <- v; sp <- sp + 1` (10_state.md R24, R25), with room left. -/
def State.push (s : State) (v : Word) (room : s.sp.val < 16) : State :=
  { s with stack := s.stack.set s.sp.val v room, sp := ⟨s.sp.val + 1, by omega⟩ }

/-- The slot a return reads: `stack[sp − 1]` (10_state.md R25). -/
def State.top (s : State) (held : 0 < s.sp.val) : Word := s.stack[s.sp.val - 1]'(by omega)

/-- `sp <- sp − 1`; the slot keeps its value (10_state.md R24). -/
def State.pop (s : State) (held : 0 < s.sp.val) : State :=
  { s with sp := ⟨s.sp.val - 1, by omega⟩ }

/-- `MemRead(a, 1)` (00_scope.md R11). -/
def State.readByte (s : State) (a : Nat) : Byte := Memory.read s.cfg.font s.mem a

/-- `MemWrite(a, 1, b)` (00_scope.md R11). -/
def State.writeByte (s : State) (a : Nat) (b : Byte) : State :=
  { s with mem := Memory.write s.cfg.font s.mem a b }

/-- The bytes `mem[a..a+k−1]`, ascending (20_memory.md R57). -/
def State.readBytes (s : State) (a k : Nat) : List Byte :=
  (List.range k).map (fun j => s.readByte (a + j))

/-- Write the bytes to `a`, `a+1`, …, ascending (20_memory.md R57). -/
def State.storeBytes (s : State) (a : Nat) : List Byte → State
  | [] => s
  | b :: bs => (s.writeByte a b).storeBytes (a + 1) bs

/-- Write the bytes to `V[r]`, `V[r+1]`, …, ascending. -/
def State.writeRegs (s : State) (r : Nat) : List Byte → State
  | [] => s
  | b :: bs => (s.writeV (BitVec.ofNat 4 r) b).writeRegs (r + 1) bs

/-- The values `V[0..k−1]`, ascending. -/
def State.readRegs (s : State) (k : Nat) : List Byte :=
  (List.range k).map (fun j => s.readV (BitVec.ofNat 4 j))

/-- `disp <- d; fc <- 1` (10_state.md R30, R31). -/
def State.writeDisplay (s : State) (d : List (List Bool)) : State := { s with disp := d, fc := true }

/-- `key[k] = 1` (10_state.md R32). -/
def State.keyDown (s : State) (k : Nibble) : Bool := s.key[k.toNat]'k.isLt

/-- The sixteen key numbers, lowest first. -/
def allKeys : List Nibble := (List.range 16).map (BitVec.ofNat 4)

/-- The least `i` with `key[i] = 1`, if any (45_keys_timers.md R189). -/
def State.lowestKey (s : State) : Option Nibble := allKeys.find? s.keyDown

/-- `draw8()` (00_scope.md R14): the free byte of this draw. -/
def State.drawn (s : State) : Byte := Config.drawByte s.draws

/-- The next draw is a new one (00_scope.md R14). -/
def State.nextDraw (s : State) : State := { s with draws := s.draws + 1 }

/-- `raise Fault(cause)` (60_exceptions.md R201): the single write of the fault latch, with `pc` at the
start of the cycle and the fetched word. Nothing else changes. -/
def State.raiseFault (s : State) (cause : FaultCause) (word : Option Word) : State :=
  { s with fault := some { cause := cause, atPc := s.pc, word := word } }

/-- The timer tick (40_cycle_engine.md R97). -/
def State.tick (s : State) : State := { s with DT := tickDown s.DT, ST := tickDown s.ST }

/-- An instruction's guard has failed: the fault of R201, recording the instruction's own word. -/
def raiseIn (i : Instr) (cause : FaultCause) (s : State) : Host.Outcome State Fault Refusal :=
  .next (s.raiseFault cause (some (encode i)))

/-- The guard of an instruction (60_exceptions.md R201, R202): when it fails the fault is all that
happens, else the instruction's writes. -/
def guarded (i : Instr) (cause : FaultCause) (failed : Bool) (s writes : State) :
    Host.Outcome State Fault Refusal :=
  if failed then raiseIn i cause s else .next writes

/-- The sequential ending: `pc <- pc + 2` (40_cycle_engine.md R93). -/
def sequential (s : State) : Host.Outcome State Fault Refusal := .next (s.advance 2)

/-- The skip ending: `pc <- pc + 4` if the condition holds, else `pc <- pc + 2`
(40_cycle_engine.md R93). -/
def skipIf (holds : Bool) (s : State) : State := if holds then s.advance 4 else s.advance 2

/-- The fetch (40_cycle_engine.md R92): the word at `pc`, or nothing when `pc > 0xFFE`. -/
def State.fetch (s : State) : Option Word :=
  if s.pc.toNat > 0xFFE then none
  else some (wordOfBytes (s.readByte s.pc.toNat) (s.readByte (s.pc.toNat + 1)))

/-- An unknown opcode's effect on `pc` (40_cycle_engine.md R96). -/
def State.skipUnknown (s : State) : State := if s.cfg.unknownAdvance then s.advance 2 else s

/-- Put the two bytes of a word where the next fetch reads them (30_encoding.md R71). -/
def State.placeWord (s : State) (w : Word) : State :=
  s.storeBytes s.pc.toNat [hiByte w, loByte w]

end Sys2Proof.Machine
end

