-- ==== Sys2Proof/Machine/Operands.lean ====
section
/-! DEFINITION. Every operand form: immediates and register values widened with zeros (00_scope.md R12;
30_encoding.md R74), the one addressing mode `I + k` with its guard (43_index_memory.md R150;
20_memory.md R56), the key operand (45_keys_timers.md R186) and the sprite operands (44_display.md R172). -/

namespace Sys2Proof.Machine

/-- `zext_16` of an address field (30_encoding.md R74). -/
def addrImm (nnn : Addr) : Word := nnn.setWidth 16

/-- `zext_16(nnn) + zext_16(V[0])`, not masked (41_control_flow.md R118). -/
def State.offsetTarget (s : State) (nnn : Addr) : Word := addrImm nnn + (s.readV 0#4).setWidth 16

/-- `V[x] × 5`, the whole byte multiplied (43_index_memory.md R153). -/
def State.glyphAddr (s : State) (x : Nibble) : Word := BitVec.ofNat 16 ((s.readV x).toNat * 5)

/-- The address `I` of a data access as a natural number, with no wrap and no mask
(43_index_memory.md R150). -/
def State.base (s : State) : Nat := s.I.toNat

/-- The guard of a data access of `k` bytes at `I`: the highest address touched is above `0xFFF`
(20_memory.md R56). An access of no bytes touches no address. -/
def State.memGuardFails (s : State) (k : Nat) : Bool := 0 < k && s.base + k - 1 > 0xFFF

/-- How many registers the block `V[0..x]` has (30_encoding.md R74). -/
def blockSize (x : Nibble) : Nat := x.toNat + 1

/-- `I + x + 1`, the index past the block (43_index_memory.md R155, R156). -/
def State.indexPastBlock (s : State) (x : Nibble) : Word := BitVec.ofNat 16 (s.base + blockSize x)

/-- `V[x]` names no key: `V[x] > 15` (60_exceptions.md R207). -/
def State.keyGuardFails (s : State) (x : Nibble) : Bool := (s.readV x).toNat > 15

/-- The key that `V[x]` names, a number in 0..15 once the guard has passed (45_keys_timers.md R186). -/
def State.keyOperand (s : State) (x : Nibble) : Nibble := (s.readV x).setWidth 4

/-- `x0 = V[x] mod DISP_W` (44_display.md R172). -/
def State.startColumn (s : State) (x : Nibble) : Nat := (s.readV x).toNat % s.cfg.dispW

/-- `y0 = V[y] mod DISP_H` (44_display.md R172). -/
def State.startRow (s : State) (y : Nibble) : Nat := (s.readV y).toNat % s.cfg.dispH

/-- The display after the sprite at `I`, and the collision (44_display.md R172), all read from the
state on entry. -/
def State.drawSprite (s : State) (x y n : Nibble) : List (List Bool) × Bool :=
  Grid.plotRows s.cfg.dispW s.cfg.dispH (s.startColumn x) (s.startRow y)
    (s.readBytes s.base n.toNat) (s.disp, false)

end Sys2Proof.Machine
end

