-- ==== Sys2Proof/Machine/Alu.lean ====
section
/-! DEFINITION. Register load, arithmetic, logic, shifts and random (42_alu.md R130 to R143). In the five
flag writers the flag is written first and the operands of the result are read again after it
(40_cycle_engine.md R99, the spec's decision D3, log entry 7). -/

namespace Sys2Proof.Machine

/-- `6xkk` LD Vx, kk (R131). -/
def execLdByte (x : Nibble) (kk : Byte) (s : State) : Host.Outcome State Fault Refusal :=
  sequential (s.writeV x kk)

/-- `7xkk` ADD Vx, kk (R132): `VF` is not written. -/
def execAddByte (x : Nibble) (kk : Byte) (s : State) : Host.Outcome State Fault Refusal :=
  sequential (s.writeV x (addByte (s.readV x) kk))

/-- `8xy0` LD Vx, Vy (R133). -/
def execLdReg (x y : Nibble) (s : State) : Host.Outcome State Fault Refusal :=
  sequential (s.writeV x (s.readV y))

/-- `8xy1` OR Vx, Vy (R134). -/
def execOrReg (x y : Nibble) (s : State) : Host.Outcome State Fault Refusal :=
  sequential (s.writeV x (s.readV x ||| s.readV y))

/-- `8xy2` AND Vx, Vy (R135). -/
def execAndReg (x y : Nibble) (s : State) : Host.Outcome State Fault Refusal :=
  sequential (s.writeV x (s.readV x &&& s.readV y))

/-- `8xy3` XOR Vx, Vy (R136). -/
def execXorReg (x y : Nibble) (s : State) : Host.Outcome State Fault Refusal :=
  sequential (s.writeV x (s.readV x ^^^ s.readV y))

/-- `8xy4` ADD Vx, Vy (R137): the sum is taken before the flag is written. -/
def execAddReg (x y : Nibble) (s : State) : Host.Outcome State Fault Refusal :=
  let sum := addByte (s.readV x) (s.readV y)
  sequential ((s.writeVF (carryOut (s.readV x) (s.readV y))).writeV x sum)

/-- `8xy5` SUB Vx, Vy (R138): both operands are read again after the flag write. -/
def execSubReg (x y : Nibble) (s : State) : Host.Outcome State Fault Refusal :=
  let flagged := s.writeVF (noBorrow (s.readV x) (s.readV y))
  sequential (flagged.writeV x (subByte (flagged.readV x) (flagged.readV y)))

/-- `8xy6` SHR Vx (R139): `y` is ignored; `V[x]` is read again after the flag write. -/
def execShr (x _y : Nibble) (s : State) : Host.Outcome State Fault Refusal :=
  let flagged := s.writeVF (shrOut (s.readV x))
  sequential (flagged.writeV x (shrByte (flagged.readV x)))

/-- `8xy7` SUBN Vx, Vy (R140): both operands are read again after the flag write. -/
def execSubnReg (x y : Nibble) (s : State) : Host.Outcome State Fault Refusal :=
  let flagged := s.writeVF (noBorrow (s.readV y) (s.readV x))
  sequential (flagged.writeV x (subByte (flagged.readV y) (flagged.readV x)))

/-- `8xyE` SHL Vx (R141): `y` is ignored; `V[x]` is read again after the flag write. -/
def execShl (x _y : Nibble) (s : State) : Host.Outcome State Fault Refusal :=
  let flagged := s.writeVF (shlOut (s.readV x))
  sequential (flagged.writeV x (shlByte (flagged.readV x)))

/-- `Cxkk` RND Vx, kk (R142): `draw8() & kk`, a free byte of its own at each use. -/
def execRnd (x : Nibble) (kk : Byte) (s : State) : Host.Outcome State Fault Refusal :=
  sequential (s.nextDraw.writeV x (s.drawn &&& kk))

end Sys2Proof.Machine
end

