-- ==== Sys2Proof/Machine/ControlFlow.lean ====
section
/-! DEFINITION. Control transfer (41_control_flow.md R110 to R118). -/

namespace Sys2Proof.Machine

/-- `00EE` RET (R111). -/
def execRet (s : State) : Host.Outcome State Fault Refusal :=
  if held : 0 < s.sp.val then .next ((s.pop held).writePc (s.top held + 2))
  else raiseIn .ret .stackUnderflow s

/-- `1nnn` JP nnn (R112). -/
def execJp (nnn : Addr) (s : State) : Host.Outcome State Fault Refusal :=
  .next (s.writePc (addrImm nnn))

/-- `2nnn` CALL nnn (R113): the address of the CALL word itself is pushed. -/
def execCall (nnn : Addr) (s : State) : Host.Outcome State Fault Refusal :=
  if room : s.sp.val < 16 then .next ((s.push s.pc room).writePc (addrImm nnn))
  else raiseIn (.call nnn) .stackOverflow s

/-- `3xkk` SE Vx, kk (R114). -/
def execSeByte (x : Nibble) (kk : Byte) (s : State) : Host.Outcome State Fault Refusal :=
  .next (skipIf (s.readV x = kk) s)

/-- `4xkk` SNE Vx, kk (R115). -/
def execSneByte (x : Nibble) (kk : Byte) (s : State) : Host.Outcome State Fault Refusal :=
  .next (skipIf (s.readV x ≠ kk) s)

/-- `5xy0` SE Vx, Vy (R116). -/
def execSeReg (x y : Nibble) (s : State) : Host.Outcome State Fault Refusal :=
  .next (skipIf (s.readV x = s.readV y) s)

/-- `9xy0` SNE Vx, Vy (R117). -/
def execSneReg (x y : Nibble) (s : State) : Host.Outcome State Fault Refusal :=
  .next (skipIf (s.readV x ≠ s.readV y) s)

/-- `Bnnn` JP V0, nnn (R118). -/
def execJpV0 (nnn : Addr) (s : State) : Host.Outcome State Fault Refusal :=
  .next (s.writePc (s.offsetTarget nnn))

end Sys2Proof.Machine
end

