-- ==== Sys2Proof/Machine/Graphics.lean ====
section
/-! DEFINITION. Clear screen and the sprite compositor (44_display.md R170 to R175). -/

namespace Sys2Proof.Machine

/-- `00E0` CLS (R171). -/
def execCls (s : State) : Host.Outcome State Fault Refusal :=
  sequential (s.writeDisplay (blankDisplay s.cfg.dispW s.cfg.dispH))

/-- `Dxyn` DRW Vx, Vy, n (R172 to R174): the coordinates are read first, the guard covers all `n` rows,
`VF` ends as the collision flag (the spec's decisions D8 to D11, log entry 16). -/
def execDrw (x y n : Nibble) (s : State) : Host.Outcome State Fault Refusal :=
  let drawn := s.drawSprite x y n
  guarded (.drw x y n) .memOutOfRange (s.memGuardFails n.toNat) s
    (((s.writeVF drawn.2).writeDisplay drawn.1).advance 2)

end Sys2Proof.Machine
end

