-- ==== Sys2Proof/Machine/IndexMemory.lean ====
section
/-! DEFINITION. Index register and memory (43_index_memory.md R150 to R156). -/

namespace Sys2Proof.Machine

/-- `Annn` LD I, nnn (R151). -/
def execLdI (nnn : Addr) (s : State) : Host.Outcome State Fault Refusal :=
  sequential (s.writeI (addrImm nnn))

/-- `Fx1E` ADD I, Vx (R152): the flag first, then `V[x]` is read again (log entry 7). -/
def execAddI (x : Nibble) (s : State) : Host.Outcome State Fault Refusal :=
  let flagged := s.writeVF (indexPassed s.I (s.readV x))
  sequential (flagged.writeI (addIndex flagged.I (flagged.readV x)))

/-- `Fx29` LD F, Vx (R153). -/
def execLdF (x : Nibble) (s : State) : Host.Outcome State Fault Refusal :=
  sequential (s.writeI (s.glyphAddr x))

/-- `Fx33` LD B, Vx (R154): hundreds, tens, ones at `I`, `I+1`, `I+2`. -/
def execLdB (x : Nibble) (s : State) : Host.Outcome State Fault Refusal :=
  guarded (.ldB x) .memOutOfRange (s.memGuardFails 3) s
    ((s.storeBytes s.base (bcdDigits (s.readV x))).advance 2)

/-- `Fx55` LD [I], Vx (R155): `V[0..x]` to memory at `I`, then `I` past the block. -/
def execStoreRegs (x : Nibble) (s : State) : Host.Outcome State Fault Refusal :=
  guarded (.storeRegs x) .memOutOfRange (s.memGuardFails (blockSize x)) s
    (((s.storeBytes s.base (s.readRegs (blockSize x))).writeI (s.indexPastBlock x)).advance 2)

/-- `Fx65` LD Vx, [I] (R156): memory at `I` to `V[0..x]`, then `I` past the block. -/
def execLoadRegs (x : Nibble) (s : State) : Host.Outcome State Fault Refusal :=
  guarded (.loadRegs x) .memOutOfRange (s.memGuardFails (blockSize x)) s
    (((s.writeRegs 0 (s.readBytes s.base (blockSize x))).writeI (s.indexPastBlock x)).advance 2)

end Sys2Proof.Machine
end

