-- ==== Sys2Proof/Machine/KeysTimers.lean ====
section
/-! DEFINITION. Key skips, await keypress, timer read and write (45_keys_timers.md R185 to R191). -/

namespace Sys2Proof.Machine

/-- `Ex9E` SKP Vx (R186). -/
def execSkp (x : Nibble) (s : State) : Host.Outcome State Fault Refusal :=
  guarded (.skp x) .keyOutOfRange (s.keyGuardFails x) s (skipIf (s.keyDown (s.keyOperand x)) s)

/-- `ExA1` SKNP Vx (R187). -/
def execSknp (x : Nibble) (s : State) : Host.Outcome State Fault Refusal :=
  guarded (.sknp x) .keyOutOfRange (s.keyGuardFails x) s (skipIf (!s.keyDown (s.keyOperand x)) s)

/-- `Fx07` LD Vx, DT (R188). -/
def execLdVxDT (x : Nibble) (s : State) : Host.Outcome State Fault Refusal :=
  sequential (s.writeV x s.DT)

/-- `Fx0A` LD Vx, K (R189): the lowest key that is down, or a stalled cycle in which `pc` stays. -/
def execLdVxK (x : Nibble) (s : State) : Host.Outcome State Fault Refusal :=
  match s.lowestKey with
  | some k => sequential (s.writeV x (k.setWidth 8))
  | none => .next s

/-- `Fx15` LD DT, Vx (R190). -/
def execLdDTVx (x : Nibble) (s : State) : Host.Outcome State Fault Refusal :=
  sequential (s.writeDT (s.readV x))

/-- `Fx18` LD ST, Vx (R191). -/
def execLdSTVx (x : Nibble) (s : State) : Host.Outcome State Fault Refusal :=
  sequential (s.writeST (s.readV x))

end Sys2Proof.Machine
end

