-- ==== Sys2Proof/Machine/Cycle.lean ====
section
/-! DEFINITION. The cycle (40_cycle_engine.md R90), its result (R100) and the result's code
(60_exceptions.md R202, R211). -/

namespace Sys2Proof.Machine

/-- The end of a cycle (R90 steps 6 and 7): the timer tick, unless the instruction faulted (R201). -/
def finishCycle : Host.Outcome State Fault Refusal → Host.Outcome State Fault Refusal
  | .next t => .next (if t.fault.isSome then t else t.tick)
  | .fault r => .fault r
  | .refused r => .refused r

/-- The cycle from step 3 on, with the word fetched: decode, execute or report, tick (R90, R96). -/
def runWord (w : Word) (s : State) : Host.Outcome State Fault Refusal :=
  match decodeWord w with
  | .instr i => finishCycle (exec i s)
  | .unknown _ => .next s.skipUnknown.tick

/-- One `cycle()` (R90): halted (R91), a fetch fault (R92), or the fetched word's cycle. -/
def cycle (s : State) : Host.Outcome State Fault Refusal :=
  if s.fault.isSome then .next s
  else
    match s.fetch with
    | none => .next (s.raiseFault .fetchOutOfRange none)
    | some w => runWord w s

/-- The instruction is an `Fx0A` that finds no key down: the cycle is stalled (45_keys_timers.md R189). -/
def isStalled : Instr → State → Bool
  | .ldVxK _, s => s.lowestKey.isNone
  | _, _ => false

/-- The result of a completed or faulted execution (R100). -/
def execResult (i : Instr) (s : State) : CycleResult :=
  match exec i s with
  | .next t =>
    match t.fault with
    | some f => .fault f.cause
    | none => if isStalled i s then .stalled else .ok
  | .fault _ | .refused _ => .halted

/-- What the cycle from this state returns to the host (R100); the state itself is `cycle`'s. -/
def cycleResult (s : State) : CycleResult :=
  if s.fault.isSome then .halted
  else
    match s.fetch with
    | none => .fault .fetchOutOfRange
    | some w =>
      match decodeWord w with
      | .unknown w => .unknownOpcode w s.pc
      | .instr i => execResult i s

/-- The code of a result: 1 to 5 for a fault (60_exceptions.md R202), 6 for the report of an unknown
opcode (R211); the other results are no exceptional outcome (R200) and have none. -/
def CycleResult.code : CycleResult → Option Nat
  | .fault c => some c.code
  | .unknownOpcode _ _ => some 6
  | .ok | .stalled | .halted => none

end Sys2Proof.Machine
end

