-- ==== Sys2Proof/Machine/Step.lean ====
section
/-! DEFINITION. The step, one `cycle()` (40_cycle_engine.md R90), and an instruction put where it fetches. -/

namespace Sys2Proof.Machine

/-- One step of the machine is one cycle (00_scope.md R6). -/
def step (s : State) : Host.Outcome State Fault Refusal := cycle s

/-- The state with the word placed at `pc` (log entry 21). -/
def State.withFetchWord (s : State) (nbits w : Nat) : State :=
  s.placeWord (BitVec.ofNat 16 (w % 2 ^ nbits))

end Sys2Proof.Machine
end

