-- ==== Sys2Proof/Machine/HostPort.lean ====
section
/-! DEFINITION. The host's operations (70_reset_and_hazards.md R230 to R235): the closed set of moves the
outside world has, each atomic and between two cycles. -/

namespace Sys2Proof.Machine

/-- `MAX_ROM`, `MEM_SIZE − PROG_BASE` (00_scope.md R5). -/
def maxRom : Nat := 3584

/-- `reset()` (R230): every piece of state at its reset value; the machine keeps its parameters, and
later draws are new ones (10_state.md R34). -/
def hostReset (s : State) : State := State.resetWith s.cfg s.draws

/-- `load(bytes)` (R231, R232): reset, then the bytes at `0x200`; a longer ROM leaves the reset state. -/
def hostLoad (bytes : List Byte) (s : State) : State :=
  if bytes.length ≤ maxRom then (hostReset s).storeBytes 0x200 bytes else hostReset s

/-- `set_key(i, b)` (R235). -/
def hostSetKey (k : Nibble) (down : Bool) (s : State) : State :=
  { s with key := s.key.set k.toNat down k.isLt }

/-- `ack_frame()` (R235): `fc <- 0`. -/
def hostAckFrame (s : State) : State := { s with fc := false }

/-- The host's operations (R235). -/
inductive HostMove where
  | reset
  | load (bytes : List Byte)
  | cycle
  | setKey (k : Nibble) (down : Bool)
  | readFrame
  | ackFrame
  | observe
  deriving DecidableEq, Repr

/-- What an operation returns to the host (R235). -/
inductive HostReply where
  /-- The operation returns nothing. -/
  | done
  /-- `load` has succeeded. -/
  | loaded
  /-- `LoadError` (60_exceptions.md R212): the ROM is longer than 3584 bytes. -/
  | loadError
  /-- The result of a cycle (40_cycle_engine.md R100). -/
  | cycled (r : CycleResult)
  /-- `disp` and `fc`. -/
  | frame (disp : List (List Bool)) (fc : Bool)
  /-- Any part of the state: the whole of it here. -/
  | observed (s : State)
  deriving DecidableEq, Repr

/-- The state after an operation (R235). -/
def hostStep (m : HostMove) (s : State) : Host.Outcome State Fault Refusal :=
  match m with
  | .reset => .next (hostReset s)
  | .load bytes => .next (hostLoad bytes s)
  | .cycle => cycle s
  | .setKey k down => .next (hostSetKey k down s)
  | .readFrame => .next s
  | .ackFrame => .next (hostAckFrame s)
  | .observe => .next s

/-- The value an operation returns (R235). -/
def hostReply (m : HostMove) (s : State) : HostReply :=
  match m with
  | .reset => .done
  | .load bytes => if bytes.length ≤ maxRom then .loaded else .loadError
  | .cycle => .cycled (cycleResult s)
  | .setKey _ _ => .done
  | .readFrame => .frame s.disp s.fc
  | .ackFrame => .done
  | .observe => .observed s

/-- The code of what an operation returns: that of a cycle's result, and 7 for `LoadError`
(60_exceptions.md R212). -/
def HostReply.code : HostReply → Option Nat
  | .cycled r => r.code
  | .loadError => some 7
  | .done | .loaded | .frame _ _ | .observed _ => none

/-- A sequence of the host's operations, in order. -/
def hostRun : List HostMove → State → Host.Outcome State Fault Refusal
  | [], s => .next s
  | m :: ms, s =>
    match hostStep m s with
    | .next t => hostRun ms t
    | .fault r => .fault r
    | .refused r => .refused r

end Sys2Proof.Machine
end

