-- ==== Sys2Proof/Safety.lean ====
section
/-! DEFINITION. The terms in which claims speak of a run: a running machine, the invariant of the
machine's data, the end of a run, and what two states have in common. -/

namespace Sys2Proof.Machine

/-- The fault latch is clear: the machine is not halted (10_state.md R33). -/
abbrev State.running (s : State) : Prop := s.fault = none

/-- `disp[r][c]` (10_state.md R30). -/
def State.pixel (s : State) (r c : Nat) : Bool := Grid.pixel s.disp r c

/-- The display has `DISP_H` rows of `DISP_W` pixels (10_state.md R30). -/
abbrev State.displaySized (s : State) : Prop := Grid.sized s.cfg.dispW s.cfg.dispH s.disp

/-- Memory is in canonical form. -/
abbrev State.memoryCanonical (s : State) : Prop := Memory.wf s.cfg.font s.mem

/-- `pc` is at most `0x10FE` (10_state.md R23). -/
abbrev State.pcBounded (s : State) : Prop := s.pc.toNat ≤ 0x10FE

/-- Every stack slot is at most `0xFFE`, the address of some fetched `2nnn` (41_control_flow.md R111). -/
abbrev State.stackBounded (s : State) : Prop := ∀ k : Fin 16, (s.stack[k.val]'k.isLt).toNat ≤ 0xFFE

/-- The invariant of the machine's data. -/
abbrev State.inv (s : State) : Prop :=
  s.memoryCanonical ∧ s.displaySized ∧ s.pcBounded ∧ s.stackBounded

/-- The word at `pc` is fetched and decodes to the instruction `i` (40_cycle_engine.md R92, R94). -/
def State.fetches (s : State) (i : Instr) : Prop :=
  ∃ w, s.fetch = some w ∧ decodeWord w = .instr i

/-- The run is over (70_reset_and_hazards.md R241, the spec's decision D28): no fault, and the word at
`pc` is a jump to `pc` itself. -/
def State.ended (s : State) : Prop :=
  s.running ∧ ∃ nnn : Addr, s.pc.toNat = nnn.toNat ∧ s.fetches (.jp nnn)

/-- `t` is `s` with the value `v` in `V[x]` and `pc` advanced by 2; every other register and every other
piece of state is as before. -/
def State.writesOne (s t : State) (x : Nibble) (v : Byte) : Prop :=
  t.readV x = v ∧ (∀ r, r ≠ x → t.readV r = s.readV r) ∧ t.pc = s.pc + 2 ∧
    { t with V := s.V, pc := s.pc } = s

/-- `t` is `s` with the value `v` in `V[x]`, the value `f` in `VF` when `x` is not 15, and `pc` advanced
by 2; every other register and every other piece of state is as before. -/
def State.writesFlagged (s t : State) (x : Nibble) (v f : Byte) : Prop :=
  t.readV x = v ∧ (x ≠ 0xF#4 → t.readV 0xF#4 = f) ∧
    (∀ r, r ≠ x → r ≠ 0xF#4 → t.readV r = s.readV r) ∧ t.pc = s.pc + 2 ∧
    { t with V := s.V, pc := s.pc } = s

/-- `t` is `s` with `pc` advanced by 4 when the condition holds and by 2 when it does not; every other
piece of state is as before. -/
def State.skips (s t : State) (holds : Prop) : Prop :=
  (holds → t.pc = s.pc + 4) ∧ (¬holds → t.pc = s.pc + 2) ∧ { t with pc := s.pc } = s

/-- `t` is `s` with the fault latch written: the cause, the `pc` of the faulting instruction and the
word; every other piece of state is as before (60_exceptions.md R201). -/
def State.latches (s t : State) (cause : FaultCause) (word : Option Word) : Prop :=
  t.fault = some { cause := cause, atPc := s.pc, word := word } ∧ { t with fault := s.fault } = s

/-- The guards of the table of 60_exceptions.md R202: the fault an instruction raises in this state. -/
def faultOf (i : Instr) (s : State) : Option FaultCause :=
  match i with
  | .call _ => if s.sp.val = 16 then some .stackOverflow else none
  | .ret => if s.sp.val = 0 then some .stackUnderflow else none
  | .drw _ _ n => if 0 < n.toNat ∧ 0xFFF < s.I.toNat + n.toNat - 1 then some .memOutOfRange else none
  | .ldB _ => if 0xFFF < s.I.toNat + 2 then some .memOutOfRange else none
  | .storeRegs x | .loadRegs x => if 0xFFF < s.I.toNat + x.toNat then some .memOutOfRange else none
  | .skp x | .sknp x => if 15 < (s.readV x).toNat then some .keyOutOfRange else none
  | _ => none

/-- The classes of 40_cycle_engine.md R93: `pc` after the instruction, when it does not fault. -/
def pcAfter (i : Instr) (s : State) : Nat :=
  match i with
  | .jp nnn | .call nnn => nnn.toNat
  | .jpV0 nnn => nnn.toNat + (s.readV 0#4).toNat
  | .ret => if h : 0 < s.sp.val then (s.top h).toNat + 2 else 0
  | .seByte x kk => s.pc.toNat + (if s.readV x = kk then 4 else 2)
  | .sneByte x kk => s.pc.toNat + (if s.readV x = kk then 2 else 4)
  | .seReg x y => s.pc.toNat + (if s.readV x = s.readV y then 4 else 2)
  | .sneReg x y => s.pc.toNat + (if s.readV x = s.readV y then 2 else 4)
  | .skp x => s.pc.toNat + (if s.keyDown (s.keyOperand x) then 4 else 2)
  | .sknp x => s.pc.toNat + (if s.keyDown (s.keyOperand x) then 2 else 4)
  | .ldVxK _ => s.pc.toNat + (if s.lowestKey = none then 0 else 2)
  | _ => s.pc.toNat + 2

/-- The sprite of `Dxyn` has a set bit on the display place (row `r`, column `c`): 44_display.md R170,
R172, said of the place instead of the loop. -/
def State.spriteOn (s : State) (x y n : Nibble) (r c : Nat) : Prop :=
  let x0 := (s.readV x).toNat % s.cfg.dispW
  let y0 := (s.readV y).toNat % s.cfg.dispH
  y0 ≤ r ∧ r < y0 + n.toNat ∧ x0 ≤ c ∧ c < x0 + 8 ∧
    (s.readByte (s.I.toNat + (r - y0))).getLsbD (7 - (c - x0)) = true

/-- The place lies on the display. -/
def State.onDisplay (s : State) (r c : Nat) : Prop := r < s.cfg.dispH ∧ c < s.cfg.dispW

end Sys2Proof.Machine

namespace Sys2Proof

/-- The seven flag writers (10_state.md R21). -/
def Instr.isFlagWriter : Instr → Bool
  | .addReg _ _ | .subReg _ _ | .shr _ _ | .subnReg _ _ | .shl _ _ | .addI _ | .drw _ _ _ => true
  | _ => false

/-- The instruction writes `V[r]` as data (10_state.md R20, R37). -/
def Instr.writesReg (r : Nibble) : Instr → Bool
  | .ldByte x _ | .addByte x _ | .ldReg x _ | .orReg x _ | .andReg x _ | .xorReg x _ | .addReg x _
  | .subReg x _ | .shr x _ | .subnReg x _ | .shl x _ | .rnd x _ | .ldVxDT x | .ldVxK x => r = x
  | .loadRegs x => r.toNat ≤ x.toNat
  | _ => false

/-- The instruction with every operand taken anew from the fields of `w` that its format names
(30_encoding.md R72, R73). -/
def Instr.withFieldsOf (w : Word) : Instr → Instr
  | .cls => .cls
  | .ret => .ret
  | .jp _ => .jp (nnnField w)
  | .call _ => .call (nnnField w)
  | .seByte _ _ => .seByte (xField w) (kkField w)
  | .sneByte _ _ => .sneByte (xField w) (kkField w)
  | .seReg _ _ => .seReg (xField w) (yField w)
  | .ldByte _ _ => .ldByte (xField w) (kkField w)
  | .addByte _ _ => .addByte (xField w) (kkField w)
  | .ldReg _ _ => .ldReg (xField w) (yField w)
  | .orReg _ _ => .orReg (xField w) (yField w)
  | .andReg _ _ => .andReg (xField w) (yField w)
  | .xorReg _ _ => .xorReg (xField w) (yField w)
  | .addReg _ _ => .addReg (xField w) (yField w)
  | .subReg _ _ => .subReg (xField w) (yField w)
  | .shr _ _ => .shr (xField w) (yField w)
  | .subnReg _ _ => .subnReg (xField w) (yField w)
  | .shl _ _ => .shl (xField w) (yField w)
  | .sneReg _ _ => .sneReg (xField w) (yField w)
  | .ldI _ => .ldI (nnnField w)
  | .jpV0 _ => .jpV0 (nnnField w)
  | .rnd _ _ => .rnd (xField w) (kkField w)
  | .drw _ _ _ => .drw (xField w) (yField w) (nField w)
  | .skp _ => .skp (xField w)
  | .sknp _ => .sknp (xField w)
  | .ldVxDT _ => .ldVxDT (xField w)
  | .ldVxK _ => .ldVxK (xField w)
  | .ldDTVx _ => .ldDTVx (xField w)
  | .ldSTVx _ => .ldSTVx (xField w)
  | .addI _ => .addI (xField w)
  | .ldF _ => .ldF (xField w)
  | .ldB _ => .ldB (xField w)
  | .storeRegs _ => .storeRegs (xField w)
  | .loadRegs _ => .loadRegs (xField w)

end Sys2Proof
end

