-- ==== Sys2Proof/WellFormed.lean ====
section
/-! DEFINITION. The operand ranges of 30_encoding.md R74, as checks on numbers and as one predicate on
instructions. The fields of `Instr` are bit vectors of exactly those ranges, so no ill-formed
instruction can be built (`Laws.wellFormed_all`); the checks decide which NUMBERS are operands. -/

namespace Sys2Proof

/-- A register number is 0 to 15 (R74). -/
def WellFormed.regNumber (k : Nat) : Bool := k < 16

/-- A row count is 0 to 15 (R74). -/
def WellFormed.rowCount (k : Nat) : Bool := k < 16

/-- An immediate byte is 0 to 255 (R74). -/
def WellFormed.byteValue (k : Nat) : Bool := k < 256

/-- An address field is 0 to 4095 (R74). -/
def WellFormed.addrValue (k : Nat) : Bool := k < 4096

/-- Every operand of the instruction lies in its field's range. -/
def Instr.wellFormed : Instr → Bool
  | .cls | .ret => true
  | .jp nnn | .call nnn | .ldI nnn | .jpV0 nnn => WellFormed.addrValue nnn.toNat
  | .seByte x kk | .sneByte x kk | .ldByte x kk | .addByte x kk | .rnd x kk =>
    WellFormed.regNumber x.toNat && WellFormed.byteValue kk.toNat
  | .seReg x y | .ldReg x y | .orReg x y | .andReg x y | .xorReg x y | .addReg x y | .subReg x y
  | .shr x y | .subnReg x y | .shl x y | .sneReg x y =>
    WellFormed.regNumber x.toNat && WellFormed.regNumber y.toNat
  | .drw x y n =>
    WellFormed.regNumber x.toNat && WellFormed.regNumber y.toNat && WellFormed.rowCount n.toNat
  | .skp x | .sknp x | .ldVxDT x | .ldVxK x | .ldDTVx x | .ldSTVx x | .addI x | .ldF x | .ldB x
  | .storeRegs x | .loadRegs x => WellFormed.regNumber x.toNat

end Sys2Proof
end

