-- ==== Sys2Proof/Certificates/Slice0/Obligations.lean ====
section
/-! DEFINITION. The statements for the provers. Each docstring names the rule or the section of spec/
that the statement formalises; a clause that rests on a decision of the spec names the decision. -/

open Sys2Proof Sys2Proof.Machine

/-! Encoding (30_encoding.md). -/

/-- 30_encoding.md R73, R76: the decoder reads back every instruction the encoder writes, with every
operand at every value. -/
def Obligations.DecodeInvertsEncode : Prop :=
  ∀ i : Instr, i.wellFormed = true ∧ decodeWord (encode i) = .instr i ∧
    decodeBytes [hiByte (encode i), loByte (encode i)] = .ok (i, [])

/-- 30_encoding.md R76, R79: a word that decodes has no other encoding: no bit of it is dropped. -/
def Obligations.EncodeInvertsDecode : Prop :=
  ∀ (w : Word) (i : Instr), decodeWord w = .instr i → encode i = w

/-- 30_encoding.md R72: the six fields of every word by their bit positions, and how they overlap; an
instruction takes the fields its format names. -/
def Obligations.FieldsAreCutFromWord : Prop :=
  ∀ w : Word,
    (opField w).toNat = w.toNat / 4096 ∧ (xField w).toNat = w.toNat / 256 % 16 ∧
    (yField w).toNat = w.toNat / 16 % 16 ∧ (nField w).toNat = w.toNat % 16 ∧
    (kkField w).toNat = w.toNat % 256 ∧ (nnnField w).toNat = w.toNat % 4096 ∧
    kkField w = yField w ++ nField w ∧ nnnField w = xField w ++ kkField w ∧
    ∀ i, decodeWord w = .instr i → i.withFieldsOf w = i

/-- 30_encoding.md section 3 (the opcode map): a word is the instruction of row `k` exactly when its
masked bits are the row's, so no word matches two rows. -/
def Obligations.DecodeFollowsOpcodeMap : Prop :=
  opcodeRows.length = 34 ∧
  ∀ (w : Word) (k : Nat) (row : OpcodeRow), opcodeRows[k]? = some row →
    (w &&& row.mask = row.pattern ↔ ∃ i, decodeWord w = .instr i ∧ i.rowIndex = k)

/-- 30_encoding.md section 4 (the unknown words): the table of unknown words per group, and that such a
word is reported as itself. The strict match is the spec's decision D4 (log entry 8). -/
def Obligations.UnknownWordsAreExactly : Prop :=
  ∀ w : Word,
    ((∃ i, decodeWord w = .instr i) ∨ decodeWord w = .unknown w) ∧
    (decodeWord w = .unknown w ↔
      (opField w = 0x0#4 ∧ nnnField w ≠ 0x0E0#12 ∧ nnnField w ≠ 0x0EE#12) ∨
      (opField w = 0x5#4 ∧ nField w ≠ 0#4) ∨
      (opField w = 0x8#4 ∧ nField w ∈ [0x8#4, 0x9#4, 0xA#4, 0xB#4, 0xC#4, 0xD#4, 0xF#4]) ∨
      (opField w = 0x9#4 ∧ nField w ≠ 0#4) ∨
      (opField w = 0xE#4 ∧ kkField w ≠ 0x9E#8 ∧ kkField w ≠ 0xA1#8) ∨
      (opField w = 0xF#4 ∧
        kkField w ∉ [0x07#8, 0x0A#8, 0x15#8, 0x18#8, 0x1E#8, 0x29#8, 0x33#8, 0x55#8, 0x65#8]))

/-- 30_encoding.md sections 2 and 3: words written out from the opcode map, one of each format. -/
def Obligations.SpecWordsDecode : Prop :=
  decodeWord 0x00EE#16 = .instr .ret ∧ decodeWord 0x1ABC#16 = .instr (.jp 0xABC#12) ∧
  decodeWord 0x3142#16 = .instr (.seByte 1#4 0x42#8) ∧
  decodeWord 0x8127#16 = .instr (.subnReg 1#4 2#4) ∧
  decodeWord 0xD125#16 = .instr (.drw 1#4 2#4 5#4) ∧
  decodeWord 0xF265#16 = .instr (.loadRegs 2#4) ∧ decodeWord 0x0000#16 = .unknown 0x0000#16

/-! The cycle (40_cycle_engine.md). -/

/-- 30_encoding.md R71: the word at `pc` is assembled big-endian from the bytes at `pc` and `pc + 1`. -/
def Obligations.FetchIsBigEndian : Prop :=
  ∀ s : State, s.pc.toNat ≤ 0xFFE →
    ∃ w, s.fetch = some w ∧ w.extractLsb' 8 8 = s.readByte s.pc.toNat ∧
      w.extractLsb' 0 8 = s.readByte (s.pc.toNat + 1) ∧
      w.toNat = 256 * (s.readByte s.pc.toNat).toNat + (s.readByte (s.pc.toNat + 1)).toNat

/-- 40_cycle_engine.md sections 1 (the steps of `cycle()`): when the two bytes at `pc` decode to an
instruction, the step of a running machine is that instruction's execution followed by the timer tick,
or by nothing when it faulted. -/
def Obligations.StepRunsDecodedInstruction : Prop :=
  ∀ (s : State) (i : Instr), s.running → s.pc.toNat ≤ 0xFFE →
    decodeBytes [s.readByte s.pc.toNat, s.readByte (s.pc.toNat + 1)] = .ok (i, []) →
    i.wellFormed = true ∧
    ∃ t, exec i s = .next t ∧ step s = .next (if t.fault = none then t.tick else t)

/-- 40_cycle_engine.md section 1 with the spec's decision D6 (log entry 9): a halted cycle changes
nothing and says so, and of the host's operations only `reset` and `load` clear the latch. -/
def Obligations.HaltedMachineStaysHalted : Prop :=
  ∀ s : State, s.fault ≠ none →
    step s = .next s ∧ cycleResult s = .halted ∧
    ∀ (m : HostMove) (t : State), hostStep m s = .next t → t.fault ≠ s.fault →
      t.fault = none ∧ (m = .reset ∨ ∃ bytes, m = .load bytes)

/-- 60_exceptions.md section 2 (FETCH_OUT_OF_RANGE) with the spec's decisions D6, D7, D23 (log entries 9,
18): a running machine with `pc` above `0xFFE` latches the fetch fault, and nothing else changes. -/
def Obligations.FetchAboveTopFaults : Prop :=
  ∀ s : State, s.running → s.pc.toNat > 0xFFE →
    cycleResult s = .fault .fetchOutOfRange ∧
    ∃ t, step s = .next t ∧ s.latches t .fetchOutOfRange none

/-- 40_cycle_engine.md section 1 (unknown opcode) with the spec's decisions D5, D19 (log entries 4, 19):
the report, `pc` by the parameter, the tick, and nothing else. -/
def Obligations.UnknownOpcodeIsReported : Prop :=
  ∀ (s : State) (w : Word), s.running → s.fetch = some w → decodeWord w = .unknown w →
    cycleResult s = .unknownOpcode w s.pc ∧
    ∃ t, step s = .next t ∧
      t.pc.toNat = (if s.cfg.unknownAdvance then s.pc.toNat + 2 else s.pc.toNat) ∧
      t.DT.toNat = s.DT.toNat - 1 ∧ t.ST.toNat = s.ST.toNat - 1 ∧
      { t with pc := s.pc, DT := s.DT, ST := s.ST } = s

/-- 40_cycle_engine.md section 1 (timer tick) and its order after execution, with the spec's decision D19
(log entry 19): in every cycle of a running machine that does not fault each timer goes down by one and
stops at 0, after the write of an `Fx15` or `Fx18`. -/
def Obligations.TimersTickOncePerCycle : Prop :=
  ∀ s t : State, s.running → step s = .next t → t.running →
    (∀ x, s.fetches (.ldDTVx x) → t.DT.toNat = (s.readV x).toNat - 1) ∧
    ((∀ x, ¬s.fetches (.ldDTVx x)) → t.DT.toNat = s.DT.toNat - 1) ∧
    (∀ x, s.fetches (.ldSTVx x) → t.ST.toNat = (s.readV x).toNat - 1) ∧
    ((∀ x, ¬s.fetches (.ldSTVx x)) → t.ST.toNat = s.ST.toNat - 1)

/-- 40_cycle_engine.md section 1 (the results): the five results of a cycle, when each is given, and the
state change. The result as a function of the state is the model's (log entry 15); the halted and fault
clauses rest on the spec's decision D6 (log entry 9), the tick of a stalled or unknown-opcode cycle on D19
(log entry 19), and the `pc` after an unknown opcode on D5 (log entry 4). -/
def Obligations.CycleResultsDescribeStep : Prop :=
  ∀ s : State, ∃ t, step s = .next t ∧
    match cycleResult s with
    | .halted => s.fault ≠ none ∧ t = s
    | .fault c => s.running ∧ s.latches t c s.fetch
    | .unknownOpcode w atPc =>
      s.running ∧ s.fetch = some w ∧ decodeWord w = .unknown w ∧ atPc = s.pc ∧
        t = { s with
          pc := if s.cfg.unknownAdvance then s.pc + 2 else s.pc
          DT := tickDown s.DT
          ST := tickDown s.ST }
    | .stalled =>
      s.running ∧ (∃ x, s.fetches (.ldVxK x)) ∧ (∀ k, s.keyDown k = false) ∧ t.pc = s.pc ∧
        t = { s with DT := tickDown s.DT, ST := tickDown s.ST }
    | .ok =>
      s.running ∧ ∃ i u, s.fetches i ∧ exec i s = .next u ∧ u.running ∧
        ¬((∃ x, i = .ldVxK x) ∧ ∀ k, s.keyDown k = false) ∧
        t = { u with DT := tickDown u.DT, ST := tickDown u.ST }

/-- 60_exceptions.md section 2 (the fault mechanism) with the spec's decision D6 (log entry 9): whatever
running machine's cycle sets the latch, the latch is all that the cycle changes, and it records the cause,
`pc` and the very word fetched (none for a fetch fault). -/
def Obligations.FaultsArePrecise : Prop :=
  ∀ s t : State, s.running → step s = .next t → ¬t.running →
    ∃ c, cycleResult s = .fault c ∧ s.latches t c s.fetch ∧
      (s.fetch = none ↔ c = .fetchOutOfRange)

/-- 60_exceptions.md section 2 (the table of causes) with the spec's decisions D6, D7, D11, D12 (log
entries 9, 16, 17): an instruction faults exactly under its guard, with its cause, and then changes
nothing else; in every other state it completes without a fault. -/
def Obligations.InstructionsFaultExactlyByGuard : Prop :=
  ∀ (i : Instr) (s : State), s.running →
    ∃ t, exec i s = .next t ∧
      match faultOf i s with
      | some c => s.latches t c (some (encode i))
      | none => t.running

/-- 40_cycle_engine.md section 1 (determinism; the free byte is the model's `draws`, log entry 5): two
machines that differ only in the draws to come give the same result, and the same next state but for the
draw itself, unless the instruction is `Cxkk`; then only `V[x]` can differ. -/
def Obligations.OnlyRandomDependsOnDraw : Prop :=
  ∀ (s : State) (d : Nat),
    cycleResult { s with draws := d } = cycleResult s ∧
    ∃ t u, step s = .next t ∧ step { s with draws := d } = .next u ∧
      ((∀ x kk, ¬s.fetches (.rnd x kk)) → t.draws = s.draws ∧ u = { t with draws := d }) ∧
      ∀ x kk, s.running → s.fetches (.rnd x kk) →
        t.draws = s.draws + 1 ∧ u.draws = d + 1 ∧ { u with V := t.V, draws := t.draws } = t ∧
          ∀ r, r ≠ x → u.readV r = t.readV r

/-- 40_cycle_engine.md section 1 (the four classes of `pc`; 16-bit sums never wrap, derived there): the
`pc` a completed instruction leaves, as a natural number. -/
def Obligations.PcFollowsItsClass : Prop :=
  ∀ (i : Instr) (s : State), s.inv → s.pc.toNat ≤ 0xFFE → s.running → faultOf i s = none →
    ∃ t, exec i s = .next t ∧ t.pc.toNat = pcAfter i s

/-! Control flow (41_control_flow.md). -/

/-- 41_control_flow.md R112: `1nnn`. -/
def Obligations.JumpSetsPc : Prop :=
  ∀ (nnn : Addr) (s : State), decodeWord (0x1#4 ++ nnn) = .instr (.jp nnn) ∧
    ∃ t, exec (.jp nnn) s = .next t ∧ t.pc.toNat = nnn.toNat ∧ { t with pc := s.pc } = s

/-- 41_control_flow.md section on `Bnnn` with the spec's decision D23 (log entry 18): the sum is neither
masked nor wrapped. -/
def Obligations.JumpWithOffsetAddsV0 : Prop :=
  ∀ (nnn : Addr) (s : State), decodeWord (0xB#4 ++ nnn) = .instr (.jpV0 nnn) ∧
    ∃ t, exec (.jpV0 nnn) s = .next t ∧ t.pc.toNat = nnn.toNat + (s.readV 0#4).toNat ∧
      { t with pc := s.pc } = s

/-- 41_control_flow.md R114 and R115: `3xkk` and `4xkk`. -/
def Obligations.ByteSkips : Prop :=
  ∀ (x : Nibble) (kk : Byte) (s : State),
    decodeWord (0x3#4 ++ x ++ kk) = .instr (.seByte x kk) ∧
    decodeWord (0x4#4 ++ x ++ kk) = .instr (.sneByte x kk) ∧
    (∃ t, exec (.seByte x kk) s = .next t ∧ s.skips t (s.readV x = kk)) ∧
    (∃ t, exec (.sneByte x kk) s = .next t ∧ s.skips t (s.readV x ≠ kk))

/-- 41_control_flow.md sections on `5xy0` and `9xy0`; that any other last digit is unknown is the strict
match of the spec's decision D4 (log entry 8). -/
def Obligations.RegisterSkips : Prop :=
  ∀ (x y n : Nibble) (s : State),
    decodeWord (0x5#4 ++ x ++ y ++ n) =
      (if n = 0#4 then .instr (.seReg x y) else .unknown (0x5#4 ++ x ++ y ++ n)) ∧
    decodeWord (0x9#4 ++ x ++ y ++ n) =
      (if n = 0#4 then .instr (.sneReg x y) else .unknown (0x9#4 ++ x ++ y ++ n)) ∧
    (∃ t, exec (.seReg x y) s = .next t ∧ s.skips t (s.readV x = s.readV y)) ∧
    (∃ t, exec (.sneReg x y) s = .next t ∧ s.skips t (s.readV x ≠ s.readV y)) ∧
    ∀ t, exec (.seReg x x) s = .next t → t.pc = s.pc + 4

/-- 41_control_flow.md section on `2nnn`, with the fault entry of the spec's decision D6 (log entry 9):
with a slot free the address of the CALL word is pushed; with none the fault is latched. -/
def Obligations.CallPushesReturnAddress : Prop :=
  ∀ (nnn : Addr) (s : State),
    (∀ room : s.sp.val < 16, ∃ t, exec (.call nnn) s = .next t ∧ t.pc.toNat = nnn.toNat ∧
      t.sp.val = s.sp.val + 1 ∧ t.stack[s.sp.val] = s.pc ∧
      (∀ k : Fin 16, k.val ≠ s.sp.val → t.stack[k] = s.stack[k]) ∧
      { t with pc := s.pc, sp := s.sp, stack := s.stack } = s) ∧
    (s.sp.val = 16 →
      ∃ t, exec (.call nnn) s = .next t ∧ s.latches t .stackOverflow (some (encode (.call nnn))))

/-- 41_control_flow.md section on `00EE`, with the fault entry of the spec's decision D6 (log entry 9): a
return address held is popped, `pc` goes 2 past it, and the slot keeps its value; with none held the
fault is latched. -/
def Obligations.ReturnPopsReturnAddress : Prop :=
  ∀ s : State,
    (∀ held : 0 < s.sp.val, ∃ t, exec .ret s = .next t ∧ t.sp.val = s.sp.val - 1 ∧
      t.pc = s.stack[s.sp.val - 1] + 2 ∧ { t with pc := s.pc, sp := s.sp } = s) ∧
    (s.sp.val = 0 → ∃ t, exec .ret s = .next t ∧ s.latches t .stackUnderflow (some 0x00EE#16))

/-- 41_control_flow.md section on `00EE`: after a call and a return from any state of the subroutine that
keeps the stack, `pc` is that of the call plus 2, and `sp` is as before the call. -/
def Obligations.ReturnComesBackAfterCall : Prop :=
  ∀ (nnn : Addr) (s : State), s.sp.val < 16 →
    ∃ t, exec (.call nnn) s = .next t ∧
      ∀ u : State, u.stack = t.stack → u.sp = t.sp →
        ∃ v, exec .ret u = .next v ∧ v.pc = s.pc + 2 ∧ v.sp = s.sp

/-! Arithmetic and logic (42_alu.md). -/

/-- 42_alu.md R131 and R133: `6xkk` and `8xy0`. -/
def Obligations.LoadsCopyIntoVx : Prop :=
  ∀ (x y : Nibble) (kk : Byte) (s : State),
    decodeWord (0x6#4 ++ x ++ kk) = .instr (.ldByte x kk) ∧
    decodeWord (0x8#4 ++ x ++ y ++ 0x0#4) = .instr (.ldReg x y) ∧
    (∃ t, exec (.ldByte x kk) s = .next t ∧ s.writesOne t x kk) ∧
    (∃ t, exec (.ldReg x y) s = .next t ∧ s.writesOne t x (s.readV y))

/-- 42_alu.md R132: `7xkk` wraps modulo 256 and writes no flag, and the property quoted there. -/
def Obligations.AddImmediateWrapsWithoutFlag : Prop :=
  ∀ (x : Nibble) (kk : Byte) (s : State),
    decodeWord (0x7#4 ++ x ++ kk) = .instr (.addByte x kk) ∧
    (∃ t v, exec (.addByte x kk) s = .next t ∧ s.writesOne t x v ∧
      v.toNat = ((s.readV x).toNat + kk.toNat) % 256) ∧
    ∀ kk' : Byte, ∃ t u, exec (.ldByte x kk) s = .next t ∧ exec (.addByte x kk') t = .next u ∧
      (u.readV x).toNat = (kk.toNat + kk'.toNat) % 256

/-- 42_alu.md R134, R135, R136: OR, AND and XOR, bit by bit, with no flag. -/
def Obligations.LogicIsBitwiseWithoutFlag : Prop :=
  ∀ (x y : Nibble) (s : State),
    decodeWord (0x8#4 ++ x ++ y ++ 0x1#4) = .instr (.orReg x y) ∧
    decodeWord (0x8#4 ++ x ++ y ++ 0x2#4) = .instr (.andReg x y) ∧
    decodeWord (0x8#4 ++ x ++ y ++ 0x3#4) = .instr (.xorReg x y) ∧
    (∃ t v, exec (.orReg x y) s = .next t ∧ s.writesOne t x v ∧
      ∀ k < 8, v.getLsbD k = ((s.readV x).getLsbD k || (s.readV y).getLsbD k)) ∧
    (∃ t v, exec (.andReg x y) s = .next t ∧ s.writesOne t x v ∧
      ∀ k < 8, v.getLsbD k = ((s.readV x).getLsbD k && (s.readV y).getLsbD k)) ∧
    (∃ t v, exec (.xorReg x y) s = .next t ∧ s.writesOne t x v ∧
      ∀ k < 8, v.getLsbD k = ((s.readV x).getLsbD k != (s.readV y).getLsbD k))

/-- 42_alu.md section on `8xy4`, register 15 included (the written order of the spec's decision D3, log
entry 7): the carry goes to `VF`, then the sum to `V[x]`. -/
def Obligations.AddSetsCarry : Prop :=
  ∀ (x y : Nibble) (s : State), decodeWord (0x8#4 ++ x ++ y ++ 0x4#4) = .instr (.addReg x y) ∧
    ∃ t v f, exec (.addReg x y) s = .next t ∧ s.writesFlagged t x v f ∧
      v.toNat = ((s.readV x).toNat + (s.readV y).toNat) % 256 ∧
      f.toNat = (if 255 < (s.readV x).toNat + (s.readV y).toNat then 1 else 0)

/-- 42_alu.md sections on `8xy5` and `8xy7`, register 15 included (the written order of the spec's
decision D3, log entry 7): the no-borrow flag goes to `VF`, and where an operand is register 15 the
subtraction reads that flag. -/
def Obligations.SubtractSetsNoBorrow : Prop :=
  ∀ (x y : Nibble) (s : State),
    decodeWord (0x8#4 ++ x ++ y ++ 0x5#4) = .instr (.subReg x y) ∧
    decodeWord (0x8#4 ++ x ++ y ++ 0x7#4) = .instr (.subnReg x y) ∧
    (∃ t v f, exec (.subReg x y) s = .next t ∧ s.writesFlagged t x v f ∧
      f.toNat = (if (s.readV y).toNat ≤ (s.readV x).toNat then 1 else 0) ∧
      v.toNat = (256 + (if x = 0xF#4 then f.toNat else (s.readV x).toNat)
        - (if y = 0xF#4 then f.toNat else (s.readV y).toNat)) % 256) ∧
    (∃ t v f, exec (.subnReg x y) s = .next t ∧ s.writesFlagged t x v f ∧
      f.toNat = (if (s.readV x).toNat ≤ (s.readV y).toNat then 1 else 0) ∧
      v.toNat = (256 + (if y = 0xF#4 then f.toNat else (s.readV y).toNat)
        - (if x = 0xF#4 then f.toNat else (s.readV x).toNat)) % 256)

/-- 42_alu.md sections on `8xy6` and `8xyE`, register 15 included (the written order of the spec's
decision D3, log entry 7): the bit shifted out goes to `VF`; `y` is decoded and ignored. -/
def Obligations.ShiftsMoveOneBit : Prop :=
  ∀ (x y : Nibble) (s : State),
    decodeWord (0x8#4 ++ x ++ y ++ 0x6#4) = .instr (.shr x y) ∧
    decodeWord (0x8#4 ++ x ++ y ++ 0xE#4) = .instr (.shl x y) ∧
    (∃ t v f, exec (.shr x y) s = .next t ∧ s.writesFlagged t x v f ∧
      f.toNat = (s.readV x).toNat % 2 ∧
      v.toNat = (if x = 0xF#4 then f.toNat else (s.readV x).toNat) / 2) ∧
    (∃ t v f, exec (.shl x y) s = .next t ∧ s.writesFlagged t x v f ∧
      f.toNat = (s.readV x).toNat / 128 ∧
      v.toNat = 2 * (if x = 0xF#4 then f.toNat else (s.readV x).toNat) % 256)

/-- 42_alu.md R143: of the twelve instructions exactly five write `VF` as a flag, always 0 or 1; with `x`
and `y` not 15 flag and result come from the values on entry. -/
def Obligations.AluFlagWritersAreFive : Prop :=
  ∀ (x y : Nibble) (kk : Byte) (s : State), x ≠ 0xF#4 →
    (∀ i ∈ [Instr.ldByte x kk, .addByte x kk, .ldReg x y, .orReg x y, .andReg x y, .xorReg x y, .rnd x kk],
      ∃ t, exec i s = .next t ∧ t.readV 0xF#4 = s.readV 0xF#4) ∧
    (∀ i ∈ [Instr.addReg x y, .subReg x y, .shr x y, .subnReg x y, .shl x y],
      ∃ t, exec i s = .next t ∧ (t.readV 0xF#4 = 0#8 ∨ t.readV 0xF#4 = 1#8)) ∧
    (y ≠ 0xF#4 →
      ∀ p ∈ [(Instr.addReg x y, s.readV x + s.readV y,
                decide (255 < (s.readV x).toNat + (s.readV y).toNat)),
             (.subReg x y, s.readV x - s.readV y, decide ((s.readV y).toNat ≤ (s.readV x).toNat)),
             (.shr x y, s.readV x >>> 1, (s.readV x).getLsbD 0),
             (.subnReg x y, s.readV y - s.readV x, decide ((s.readV x).toNat ≤ (s.readV y).toNat)),
             (.shl x y, s.readV x <<< 1, (s.readV x).getLsbD 7)],
        ∃ t, exec p.1 s = .next t ∧ s.writesFlagged t x p.2.1 (if p.2.2 then 1#8 else 0#8))

/-- 42_alu.md section on `Cxkk` with the spec's decision D15 (the free byte of log entry 5): the drawn
byte under the mask, whatever byte it is, and the next draw is another one. -/
def Obligations.RandomIsMaskedDraw : Prop :=
  ∀ (x : Nibble) (kk : Byte) (s : State), decodeWord (0xC#4 ++ x ++ kk) = .instr (.rnd x kk) ∧
    ∃ t, exec (.rnd x kk) s = .next t ∧ t.draws = s.draws + 1 ∧
      t.readV x &&& ~~~kk = 0#8 ∧ (kk = 0#8 → t.readV x = 0#8) ∧
      (kk = 0xFF#8 → t.readV x = Config.drawByte s.draws) ∧
      s.writesOne { t with draws := s.draws } x (Config.drawByte s.draws &&& kk)

/-! Index and memory (43_index_memory.md). -/

/-- 43_index_memory.md R151 and R153: `Annn` and `Fx29`. -/
def Obligations.IndexLoads : Prop :=
  ∀ (x : Nibble) (nnn : Addr) (s : State),
    decodeWord (0xA#4 ++ nnn) = .instr (.ldI nnn) ∧
    decodeWord (0xF#4 ++ x ++ 0x29#8) = .instr (.ldF x) ∧
    (∃ t, exec (.ldI nnn) s = .next t ∧ t.I.toNat = nnn.toNat ∧ t.pc = s.pc + 2 ∧
      { t with I := s.I, pc := s.pc } = s) ∧
    (∃ t, exec (.ldF x) s = .next t ∧ t.I.toNat = 5 * (s.readV x).toNat ∧ t.pc = s.pc + 2 ∧
      { t with I := s.I, pc := s.pc } = s)

/-- 43_index_memory.md section on `Fx1E` with the spec's decisions D3 and D18 (log entries 7, 18): the
flag from the untruncated sum, then the index modulo 2^16, where register 15 adds the flag. -/
def Obligations.AddToIndexSetsFlag : Prop :=
  ∀ (x : Nibble) (s : State), decodeWord (0xF#4 ++ x ++ 0x1E#8) = .instr (.addI x) ∧
    ∃ t, exec (.addI x) s = .next t ∧
      (t.readV 0xF#4).toNat = (if 0xFFF < s.I.toNat + (s.readV x).toNat then 1 else 0) ∧
      (∀ r, r ≠ 0xF#4 → t.readV r = s.readV r) ∧
      t.I.toNat =
        (s.I.toNat + (if x = 0xF#4 then (t.readV 0xF#4).toNat else (s.readV x).toNat)) % 65536 ∧
      t.pc = s.pc + 2 ∧ { t with V := s.V, I := s.I, pc := s.pc } = s

/-- 43_index_memory.md section on `Fx33`, with the fault entry of the spec's decisions D6 and D11 (log
entries 9, 16): the three decimal digits at `I`, `I+1`, `I+2`; every other byte and everything else as
before. -/
def Obligations.BcdStoresDigits : Prop :=
  ∀ (x : Nibble) (s : State),
    decodeWord (0xF#4 ++ x ++ 0x33#8) = .instr (.ldB x) ∧
    (s.I.toNat + 2 ≤ 0xFFF → ∃ t, exec (.ldB x) s = .next t ∧
      (t.readByte s.I.toNat).toNat = (s.readV x).toNat / 100 ∧
      (t.readByte (s.I.toNat + 1)).toNat = (s.readV x).toNat / 10 % 10 ∧
      (t.readByte (s.I.toNat + 2)).toNat = (s.readV x).toNat % 10 ∧
      (∀ a, a < s.I.toNat ∨ s.I.toNat + 2 < a → t.readByte a = s.readByte a) ∧
      t.pc = s.pc + 2 ∧ { t with mem := s.mem, pc := s.pc } = s) ∧
    (0xFFF < s.I.toNat + 2 →
      ∃ t, exec (.ldB x) s = .next t ∧ s.latches t .memOutOfRange (some (encode (.ldB x))))

/-- 43_index_memory.md section on `Fx55`, with the fault entry of the spec's decisions D6 and D11 (log
entries 9, 16): `V[0..x]` at `I..I+x`, `I` past the block; every other byte and everything else as
before. -/
def Obligations.BlockStoreWritesRegisters : Prop :=
  ∀ (x : Nibble) (s : State),
    decodeWord (0xF#4 ++ x ++ 0x55#8) = .instr (.storeRegs x) ∧
    (s.I.toNat + x.toNat ≤ 0xFFF → ∃ t, exec (.storeRegs x) s = .next t ∧
      (∀ r : Nibble, r.toNat ≤ x.toNat → t.readByte (s.I.toNat + r.toNat) = s.readV r) ∧
      (∀ a, a < s.I.toNat ∨ s.I.toNat + x.toNat < a → t.readByte a = s.readByte a) ∧
      t.I.toNat = s.I.toNat + x.toNat + 1 ∧ t.pc = s.pc + 2 ∧
      { t with mem := s.mem, I := s.I, pc := s.pc } = s) ∧
    (0xFFF < s.I.toNat + x.toNat →
      ∃ t, exec (.storeRegs x) s = .next t ∧
        s.latches t .memOutOfRange (some (encode (.storeRegs x))))

/-- 43_index_memory.md section on `Fx65`, with the fault entry of the spec's decisions D6 and D11 (log
entries 9, 16): memory at `I..I+x` to `V[0..x]`, `I` past the block; the registers above `x` and
everything else as before. -/
def Obligations.BlockLoadReadsRegisters : Prop :=
  ∀ (x : Nibble) (s : State),
    decodeWord (0xF#4 ++ x ++ 0x65#8) = .instr (.loadRegs x) ∧
    (s.I.toNat + x.toNat ≤ 0xFFF → ∃ t, exec (.loadRegs x) s = .next t ∧
      (∀ r : Nibble, r.toNat ≤ x.toNat → t.readV r = s.readByte (s.I.toNat + r.toNat)) ∧
      (∀ r : Nibble, x.toNat < r.toNat → t.readV r = s.readV r) ∧
      t.I.toNat = s.I.toNat + x.toNat + 1 ∧ t.pc = s.pc + 2 ∧
      { t with V := s.V, I := s.I, pc := s.pc } = s) ∧
    (0xFFF < s.I.toNat + x.toNat →
      ∃ t, exec (.loadRegs x) s = .next t ∧
        s.latches t .memOutOfRange (some (encode (.loadRegs x))))

/-- 43_index_memory.md section on `Fx65`, the round trip: a block stored and then loaded, with the index
set back and any registers in between, gives the registers back. -/
def Obligations.BlockStoreThenLoadRoundTrips : Prop :=
  ∀ (x : Nibble) (s : State), s.I.toNat + x.toNat ≤ 0xFFF →
    ∃ t, exec (.storeRegs x) s = .next t ∧
      ∀ V : Vector Byte 16, ∃ u, exec (.loadRegs x) { t with V := V, I := s.I } = .next u ∧
        u.I = t.I ∧ u.mem = t.mem ∧ ∀ r : Nibble, r.toNat ≤ x.toNat → u.readV r = s.readV r

/-! Display (44_display.md). -/

/-- 44_display.md R171: `00E0`. -/
def Obligations.ClearScreenClears : Prop :=
  decodeWord 0x00E0#16 = .instr .cls ∧
  ∀ s : State, ∃ t, exec .cls s = .next t ∧ t.displaySized ∧ (∀ r c, t.pixel r c = false) ∧
    t.fc = true ∧ t.pc = s.pc + 2 ∧ { t with disp := s.disp, fc := s.fc, pc := s.pc } = s

/-- 44_display.md sections on `Dxyn` and clipping, with the spec's decisions D6, D8, D9, D10, D11, D24
(log entries 9, 16): every pixel of the display is toggled exactly where the clipped sprite has a set
bit, `VF` says whether one of those was on, and everything else is as before; a sprite that reaches
above `0xFFF` latches the fault. -/
def Obligations.DrawXorsSpriteAndReportsCollision : Prop :=
  ∀ (x y n : Nibble) (s : State), s.displaySized →
    decodeWord (0xD#4 ++ x ++ y ++ n) = .instr (.drw x y n) ∧
    (n = 0#4 ∨ s.I.toNat + n.toNat - 1 ≤ 0xFFF → ∃ t, exec (.drw x y n) s = .next t ∧
      (∀ r c, s.onDisplay r c → (t.pixel r c ≠ s.pixel r c ↔ s.spriteOn x y n r c)) ∧
      (t.readV 0xF#4 = 0#8 ∨ t.readV 0xF#4 = 1#8) ∧
      (t.readV 0xF#4 = 1#8 ↔
        ∃ r c, s.onDisplay r c ∧ s.spriteOn x y n r c ∧ s.pixel r c = true) ∧
      (∀ r, r ≠ 0xF#4 → t.readV r = s.readV r) ∧ t.displaySized ∧ t.fc = true ∧
      t.pc = s.pc + 2 ∧
      { t with V := s.V, disp := s.disp, fc := s.fc, pc := s.pc } = s) ∧
    (n ≠ 0#4 ∧ 0xFFF < s.I.toNat + n.toNat - 1 →
      ∃ t, exec (.drw x y n) s = .next t ∧ s.latches t .memOutOfRange (some (encode (.drw x y n))))

/-- 44_display.md section on `Dxyn`, corner case (g), with the decisions of the statement before it: the
same sprite drawn twice at the same place restores the display, and the second draw reports a collision
exactly when some set bit is not clipped. Register 15 is overwritten by the first draw, so it is no
coordinate here: with it the place is not the same. -/
def Obligations.DrawingTwiceRestoresDisplay : Prop :=
  ∀ (x y n : Nibble) (s : State), s.displaySized → x ≠ 0xF#4 → y ≠ 0xF#4 →
    faultOf (.drw x y n) s = none →
    ∃ t u, exec (.drw x y n) s = .next t ∧ exec (.drw x y n) t = .next u ∧ u.disp = s.disp ∧
      ((∀ r c, s.onDisplay r c → s.pixel r c = false) →
        (u.readV 0xF#4 = 1#8 ↔ ∃ r c, s.onDisplay r c ∧ s.spriteOn x y n r c))

/-- 44_display.md R175: `00E0` and every `Dxyn` that does not fault set `fc`, no instruction clears or
reads it (with another `fc` the next state is the same but for `fc`), and the host's `ack_frame` clears
it. -/
def Obligations.FrameFlagIsSetNeverReadOrCleared : Prop :=
  ∀ (i : Instr) (s : State),
    (∃ t, exec i s = .next t ∧ (s.fc = true → t.fc = true) ∧ (i = .cls → t.fc = true) ∧
      (∀ x y n, i = .drw x y n → faultOf i s = none → t.fc = true) ∧
      ∀ b : Bool, ∃ u, exec i { s with fc := b } = .next u ∧ { u with fc := t.fc } = t) ∧
    ∃ t, hostStep .ackFrame s = .next t ∧ t.fc = false ∧ { t with fc := s.fc } = s

/-! Keys and timers (45_keys_timers.md). -/

/-- 45_keys_timers.md sections on `Ex9E` and `ExA1`, with the fault of the spec's decision D12 (log entry
17): the whole register is the key number. -/
def Obligations.KeySkips : Prop :=
  ∀ (x : Nibble) (s : State),
    decodeWord (0xE#4 ++ x ++ 0x9E#8) = .instr (.skp x) ∧
    decodeWord (0xE#4 ++ x ++ 0xA1#8) = .instr (.sknp x) ∧
    (∀ k : Nibble, (s.readV x).toNat = k.toNat →
      (∃ t, exec (.skp x) s = .next t ∧ s.skips t (s.keyDown k = true)) ∧
      (∃ t, exec (.sknp x) s = .next t ∧ s.skips t (s.keyDown k = false))) ∧
    (15 < (s.readV x).toNat →
      (∃ t, exec (.skp x) s = .next t ∧ s.latches t .keyOutOfRange (some (encode (.skp x)))) ∧
      (∃ t, exec (.sknp x) s = .next t ∧ s.latches t .keyOutOfRange (some (encode (.sknp x)))))

/-- 45_keys_timers.md section on `Fx0A` with the spec's decision D25 (log entry 17): the lowest key that
is down, or nothing at all while none is. -/
def Obligations.AwaitKeyTakesLowestOrStalls : Prop :=
  ∀ (x : Nibble) (s : State), decodeWord (0xF#4 ++ x ++ 0x0A#8) = .instr (.ldVxK x) ∧
    (∀ k : Nibble, s.keyDown k = true → (∀ j : Nibble, j.toNat < k.toNat → s.keyDown j = false) →
      ∃ t v, exec (.ldVxK x) s = .next t ∧ s.writesOne t x v ∧ v.toNat = k.toNat) ∧
    ((∀ k : Nibble, s.keyDown k = false) → exec (.ldVxK x) s = .next s)

/-- 45_keys_timers.md R188: `Fx07` reads the timer before the tick of its own cycle, and no instruction
reads `ST`: with another `ST` every instruction gives the same next state but for `ST`. -/
def Obligations.DelayTimerIsReadBeforeTick : Prop :=
  ∀ (x : Nibble) (s : State), decodeWord (0xF#4 ++ x ++ 0x07#8) = .instr (.ldVxDT x) ∧
    (∃ t, exec (.ldVxDT x) s = .next t ∧ s.writesOne t x s.DT) ∧
    (s.running → ∃ t, finishCycle (exec (.ldVxDT x) s) = .next t ∧ t.readV x = s.DT ∧
      t.DT.toNat = s.DT.toNat - 1) ∧
    ∀ (i : Instr) (v : Byte), ∃ t u, exec i s = .next t ∧ exec i { s with ST := v } = .next u ∧
      { u with ST := t.ST } = t

/-- 45_keys_timers.md R190 and R191: `Fx15` and `Fx18` write their timer, and the tick of the same cycle
follows the write. -/
def Obligations.TimerWritesThenTick : Prop :=
  ∀ (x : Nibble) (s : State),
    decodeWord (0xF#4 ++ x ++ 0x15#8) = .instr (.ldDTVx x) ∧
    decodeWord (0xF#4 ++ x ++ 0x18#8) = .instr (.ldSTVx x) ∧
    (∃ t, exec (.ldDTVx x) s = .next t ∧ t.DT = s.readV x ∧ t.pc = s.pc + 2 ∧
      { t with DT := s.DT, pc := s.pc } = s) ∧
    (∃ t, exec (.ldSTVx x) s = .next t ∧ t.ST = s.readV x ∧ t.pc = s.pc + 2 ∧
      { t with ST := s.ST, pc := s.pc } = s) ∧
    (s.running →
      (∃ t, finishCycle (exec (.ldDTVx x) s) = .next t ∧ t.DT.toNat = (s.readV x).toNat - 1) ∧
      (∃ t, finishCycle (exec (.ldSTVx x) s) = .next t ∧ t.ST.toNat = (s.readV x).toNat - 1))

/-- 70_reset_and_hazards.md section 3 (timer off-by-one, derived there): `Fx15` followed at once by `Fx07`
reads back one less than was written. -/
def Obligations.TimerReadsBackOneLess : Prop :=
  ∀ (x y : Nibble) (s : State), s.running →
    ∃ t, finishCycle (exec (.ldDTVx x) s) = .next t ∧
      ∃ u, exec (.ldVxDT y) t = .next u ∧ (u.readV y).toNat = (s.readV x).toNat - 1

/-! Whole-machine rules. -/

/-- The machine's data keep their invariant in every step: canonical memory and a display of its size (the
model's own forms, log entries 11, 12), `pc` at most `0x10FE` (10_state.md section 1, derived there), and
every stack slot the address of a fetchable word (41_control_flow.md section on `00EE`, derived there). -/
def Obligations.StepKeepsInvariant : Prop :=
  ∀ s t : State, s.inv → step s = .next t → t.inv

/-- The invariant of `StepKeepsInvariant` holds after reset, whatever the parameters and the draws. -/
def Obligations.ResetHasInvariant : Prop :=
  State.reset.inv ∧ ∀ (c : Config) (d : Nat), (State.resetWith c d).inv ∧ (State.resetWith c d).running

/-- Every sequence of the host's operations (70_reset_and_hazards.md section 2) completes, keeps the
invariant and leaves the parameters of the block as they are (00_scope.md section 3; the parameters in
the state are the model's own, log entry 1). -/
def Obligations.HostRunsKeepInvariant : Prop :=
  ∀ (ms : List HostMove) (s : State), s.inv → ∃ t, hostRun ms s = .next t ∧ t.inv ∧ t.cfg = s.cfg

/-- 10_state.md sections 1 to 6 and 8 (the table of the section on closure): which instructions write
which piece of state, and that none writes the key state and none clears `fc`. The two clauses on `cfg` and
`draws` are about the model's own fields, which that table does not list: no instruction changes the
parameters (log entry 1, DESIGN CHOICE), and only `Cxkk` takes a draw (log entry 5, DESIGN CHOICE). -/
def Obligations.StateIsWrittenOnlyByItsWriters : Prop :=
  ∀ (i : Instr) (s t : State), exec i s = .next t →
    t.key = s.key ∧ t.cfg = s.cfg ∧ (s.fc = true → t.fc = true) ∧
    ((∀ nnn, i ≠ .call nnn) → t.stack = s.stack ∧ (i ≠ .ret → t.sp = s.sp)) ∧
    ((∀ x y n, i ≠ .drw x y n) → i ≠ .cls → t.disp = s.disp ∧ t.fc = s.fc) ∧
    ((∀ x, i ≠ .ldB x ∧ i ≠ .storeRegs x) → t.mem = s.mem) ∧
    ((∀ x, i ≠ .ldDTVx x) → t.DT = s.DT) ∧ ((∀ x, i ≠ .ldSTVx x) → t.ST = s.ST) ∧
    ((∀ nnn x, i ≠ .ldI nnn ∧ i ≠ .addI x ∧ i ≠ .ldF x ∧ i ≠ .storeRegs x ∧ i ≠ .loadRegs x) →
      t.I = s.I) ∧
    ((∀ x kk, i ≠ .rnd x kk) → t.draws = s.draws) ∧
    ∀ r, i.writesReg r = false → (r = 0xF#4 → i.isFlagWriter = false) → t.readV r = s.readV r

/-- 20_memory.md section 1 with the model's canonical form (log entry 11): two canonical memories that
read alike at every address of the machine are the same data. -/
def Obligations.CanonicalMemoryIsDetermined : Prop :=
  ∀ (font : Vector Byte 80) (m m' : List Host.Cell), Memory.wf font m → Memory.wf font m' →
    (∀ a, a < 4096 → Memory.read font m a = Memory.read font m' a) → m = m'

/-- 70_reset_and_hazards.md section 3 (the end of a run, the spec's decision D28, log entry 24): an ended
run stays ended with only the timers changing, and within 255 cycles it is a fixed point of the cycle. -/
def Obligations.EndedRunReachesFixedPoint : Prop :=
  ∀ s : State, s.ended →
    (∃ t, step s = .next t ∧ t.ended ∧ { t with DT := s.DT, ST := s.ST } = s) ∧
    ∃ t, Sys2Proof.core.run 255 s = .next t ∧ step t = .next t ∧ t.DT = 0#8 ∧ t.ST = 0#8

/-! Reset, load and the host (70_reset_and_hazards.md). -/

/-- 70_reset_and_hazards.md section 1 (the values of reset), with `fc` and `fault` by the spec's decisions
D13 and D6 (log entries 10, 9): the host's reset gives them from every state, memory included. That it
keeps the parameters `cfg` and the draw counter `draws`, the model's own fields, is log entry 6 (DESIGN
CHOICE). -/
def Obligations.ResetGivesResetValues : Prop :=
  ∀ s : State, ∃ t, hostStep .reset s = .next t ∧
    (∀ r, t.readV r = 0#8) ∧ t.I = 0#16 ∧ t.pc = 0x200#16 ∧ (∀ k : Fin 16, t.stack[k] = 0#16) ∧
    t.sp.val = 0 ∧ t.DT = 0#8 ∧ t.ST = 0#8 ∧
    (∀ (a : Nat) (h : a < 80), t.readByte a = s.cfg.font[a]) ∧
    (∀ a, 80 ≤ a → a ≤ 0xFFF → t.readByte a = 0#8) ∧
    (∀ r c, t.pixel r c = false) ∧ t.displaySized ∧
    (∀ k, t.keyDown k = false) ∧ t.fc = false ∧ t.fault = none ∧
    t.cfg = s.cfg ∧ t.draws = s.draws

/-- 20_memory.md section 1 (the address map): the bytes after `reset()` and after `load(bytes)`. -/
def Obligations.MemoryMapAfterResetAndLoad : Prop :=
  ∀ (s : State) (bytes : List Byte), bytes.length ≤ 3584 →
    ∃ t u, hostStep .reset s = .next t ∧ hostStep (.load bytes) s = .next u ∧
      t.pc = 0x200#16 ∧ u.pc = 0x200#16 ∧
      (∀ (a : Nat) (h : a < 80), t.readByte a = s.cfg.font[a] ∧ u.readByte a = s.cfg.font[a]) ∧
      (∀ a, 80 ≤ a → a < 0x200 → t.readByte a = 0#8 ∧ u.readByte a = 0#8) ∧
      (∀ a, 0x200 ≤ a → a ≤ 0xFFF →
        t.readByte a = 0#8 ∧ u.readByte a = (bytes[a - 0x200]?).getD 0#8)

/-- 70_reset_and_hazards.md R231: `load` of at most 3584 bytes, the empty and the odd ROM included, and
what the first cycle fetches. -/
def Obligations.LoadPlacesRom : Prop :=
  ∀ (s : State) (bytes : List Byte), bytes.length ≤ 3584 →
    hostReply (.load bytes) s = .loaded ∧
    ∃ t u, hostStep .reset s = .next t ∧ hostStep (.load bytes) s = .next u ∧
      { u with mem := t.mem } = t ∧
      (∀ a, 0x200 ≤ a → a < 0x200 + bytes.length →
        u.readByte a = (bytes[a - 0x200]?).getD 0#8) ∧
      (∀ a, a < 0x200 → u.readByte a = t.readByte a) ∧
      (∀ a, 0x200 + bytes.length ≤ a → a ≤ 0xFFF → u.readByte a = 0#8) ∧
      (bytes = [] → u = t ∧ cycleResult u = .unknownOpcode 0x0000#16 0x200#16) ∧
      u.fetch = some ((bytes[0]?).getD 0#8 ++ (bytes[1]?).getD 0#8)

/-- 70_reset_and_hazards.md section 1 (`load` failure) with the spec's decision D27 (log entry 23): a ROM
of more than 3584 bytes is refused and leaves exactly the reset state. -/
def Obligations.LoadErrorLeavesResetState : Prop :=
  ∀ (s : State) (bytes : List Byte), 3584 < bytes.length →
    hostReply (.load bytes) s = .loadError ∧ hostStep (.load bytes) s = hostStep .reset s ∧
    ∃ t, hostStep (.load bytes) s = .next t ∧ t.fault = none ∧ t.mem = [] ∧
      cycleResult t = .unknownOpcode 0x0000#16 0x200#16

/-- 60_exceptions.md sections 2 and 4 with the numbering of the spec's decision D7 (log entry 9): the code
of what a host operation returns. A fault has its cause's code, 6 is exactly the report of an unknown opcode
by a cycle, 7 is exactly the `LoadError` of a ROM that is too long, and no other code is returned. -/
def Obligations.ExceptionalOutcomesHaveTheirCodes : Prop :=
  ∀ (m : HostMove) (s : State),
    ((hostReply m s).code = some 6 ↔
      m = .cycle ∧ s.running ∧ ∃ w, s.fetch = some w ∧ decodeWord w = .unknown w) ∧
    ((hostReply m s).code = some 7 ↔ ∃ bytes, m = .load bytes ∧ 3584 < bytes.length) ∧
    (∀ c, (hostReply m s).code = some (FaultCause.code c) ↔ m = .cycle ∧ cycleResult s = .fault c) ∧
    (∀ k, (hostReply m s).code = some k → 1 ≤ k ∧ k ≤ 7) ∧
    [FaultCause.fetchOutOfRange, .stackOverflow, .stackUnderflow, .memOutOfRange,
      .keyOutOfRange].map FaultCause.code = [1, 2, 3, 4, 5]

/-- 70_reset_and_hazards.md section 2 (the host's operations) with the spec's decisions D20 and D26 (log
entry 13): what each of the others changes and returns. -/
def Obligations.HostOperationsTouchOnlyTheirOwn : Prop :=
  ∀ (s : State) (k : Nibble) (b : Bool),
    (∃ t, hostStep (.setKey k b) s = .next t ∧ t.keyDown k = b ∧
      (∀ j, j ≠ k → t.keyDown j = s.keyDown j) ∧ { t with key := s.key } = s) ∧
    (∃ t, hostStep .ackFrame s = .next t ∧ t.fc = false ∧ { t with fc := s.fc } = s) ∧
    hostStep .readFrame s = .next s ∧ hostReply .readFrame s = .frame s.disp s.fc ∧
    hostStep .observe s = .next s ∧ hostReply .observe s = .observed s ∧
    hostStep .cycle s = step s ∧ hostReply .cycle s = .cycled (cycleResult s)
end

