-- ==== Sys2Proof/Laws/Decode.lean ====
section
/-! SUPPORT. The fields of a word laid out by a format (30_encoding.md R72, R73), and the masks of the
opcode map (R76) as fields. -/

namespace Sys2Proof

section
variable (op x y n : Nibble) (kk : Byte) (nnn : Addr)

@[simp] theorem opField_formatA : opField (formatA op nnn) = op := by
  apply BitVec.eq_of_getLsbD_eq; intro k hk
  simp only [opField, formatA, BitVec.getLsbD_extractLsb', BitVec.getLsbD_append]
  rcases k with _ | _ | _ | _ | k <;> simp

@[simp] theorem nnnField_formatA : nnnField (formatA op nnn) = nnn := by
  apply BitVec.eq_of_getLsbD_eq; intro k hk
  simp only [nnnField, formatA, BitVec.getLsbD_extractLsb', BitVec.getLsbD_append]
  simp [hk]

@[simp] theorem opField_formatXK : opField (formatXK op x kk) = op := by
  apply BitVec.eq_of_getLsbD_eq; intro k hk
  simp only [opField, formatXK, BitVec.getLsbD_extractLsb', BitVec.getLsbD_append]
  rcases k with _ | _ | _ | _ | k <;> simp

@[simp] theorem xField_formatXK : xField (formatXK op x kk) = x := by
  apply BitVec.eq_of_getLsbD_eq; intro k hk
  simp only [xField, formatXK, BitVec.getLsbD_extractLsb', BitVec.getLsbD_append]
  rcases k with _ | _ | _ | _ | k <;> simp

@[simp] theorem kkField_formatXK : kkField (formatXK op x kk) = kk := by
  apply BitVec.eq_of_getLsbD_eq; intro k hk
  simp only [kkField, formatXK, BitVec.getLsbD_extractLsb', BitVec.getLsbD_append]
  simp [hk]

@[simp] theorem opField_formatXYN : opField (formatXYN op x y n) = op := by
  apply BitVec.eq_of_getLsbD_eq; intro k hk
  simp only [opField, formatXYN, BitVec.getLsbD_extractLsb', BitVec.getLsbD_append]
  rcases k with _ | _ | _ | _ | k <;> simp

@[simp] theorem xField_formatXYN : xField (formatXYN op x y n) = x := by
  apply BitVec.eq_of_getLsbD_eq; intro k hk
  simp only [xField, formatXYN, BitVec.getLsbD_extractLsb', BitVec.getLsbD_append]
  rcases k with _ | _ | _ | _ | k <;> simp

@[simp] theorem yField_formatXYN : yField (formatXYN op x y n) = y := by
  apply BitVec.eq_of_getLsbD_eq; intro k hk
  simp only [yField, formatXYN, BitVec.getLsbD_extractLsb', BitVec.getLsbD_append]
  rcases k with _ | _ | _ | _ | k <;> simp

@[simp] theorem nField_formatXYN : nField (formatXYN op x y n) = n := by
  apply BitVec.eq_of_getLsbD_eq; intro k hk
  simp only [nField, formatXYN, BitVec.getLsbD_extractLsb', BitVec.getLsbD_append]
  simp [hk]

end

/-- A word is its format `A` fields. -/
theorem formatA_fields (w : Word) : formatA (opField w) (nnnField w) = w := by
  apply BitVec.eq_of_getLsbD_eq; intro k hk
  simp only [opField, nnnField, formatA, BitVec.getLsbD_extractLsb', BitVec.getLsbD_append]
  by_cases h : k < 12
  · simp [h]
  · have h1 : k - 12 < 4 := by omega
    have h2 : 12 + (k - 12) = k := by omega
    simp [h, h1, h2]

/-- A word is its format `XK` fields. -/
theorem formatXK_fields (w : Word) : formatXK (opField w) (xField w) (kkField w) = w := by
  apply BitVec.eq_of_getLsbD_eq; intro k hk
  simp only [opField, xField, kkField, formatXK, BitVec.getLsbD_extractLsb', BitVec.getLsbD_append]
  by_cases h : k < 8
  · simp [h]
  · by_cases h' : k - 8 < 4
    · have h2 : 8 + (k - 8) = k := by omega
      simp [h, h', h2]
    · have h1 : k - 8 - 4 < 4 := by omega
      have h2 : 12 + (k - 8 - 4) = k := by omega
      simp [h, h', h1, h2]

/-- A word is its format `XYN` fields. -/
theorem formatXYN_fields (w : Word) : formatXYN (opField w) (xField w) (yField w) (nField w) = w := by
  apply BitVec.eq_of_getLsbD_eq; intro k hk
  simp only [opField, xField, yField, nField, formatXYN, BitVec.getLsbD_extractLsb', BitVec.getLsbD_append]
  by_cases h : k < 4
  · simp [h]
  · by_cases h' : k - 4 < 4
    · have h2 : 4 + (k - 4) = k := by omega
      simp [h, h', h2]
    · by_cases h'' : k - 4 - 4 < 4
      · have h2 : 8 + (k - 4 - 4) = k := by omega
        simp [h, h', h'', h2]
      · have h1 : k - 4 - 4 - 4 < 4 := by omega
        have h2 : 12 + (k - 4 - 4 - 4) = k := by omega
        simp [h, h', h'', h1, h2]

/-- Mask `0xF000` keeps `op` (R76). -/
theorem and_F000 (w : Word) : w &&& 0xF000#16 = formatA (opField w) 0#12 := by
  apply BitVec.eq_of_getLsbD_eq; intro k hk
  simp only [opField, formatA, BitVec.getLsbD_and, BitVec.getLsbD_extractLsb', BitVec.getLsbD_append]
  interval_cases k <;> simp

/-- Mask `0xF00F` keeps `op` and `n` (R76). -/
theorem and_F00F (w : Word) : w &&& 0xF00F#16 = formatXYN (opField w) 0#4 0#4 (nField w) := by
  apply BitVec.eq_of_getLsbD_eq; intro k hk
  simp only [opField, nField, formatXYN, BitVec.getLsbD_and, BitVec.getLsbD_extractLsb',
    BitVec.getLsbD_append]
  interval_cases k <;> simp

/-- Mask `0xF0FF` keeps `op` and `kk` (R76). -/
theorem and_F0FF (w : Word) : w &&& 0xF0FF#16 = formatXK (opField w) 0#4 (kkField w) := by
  apply BitVec.eq_of_getLsbD_eq; intro k hk
  simp only [opField, kkField, formatXK, BitVec.getLsbD_and, BitVec.getLsbD_extractLsb',
    BitVec.getLsbD_append]
  interval_cases k <;> simp

/-- The two bytes of a word make it up again (R71). -/
@[simp] theorem wordOfBytes_bytes (w : Word) : wordOfBytes (hiByte w) (loByte w) = w := by
  apply BitVec.eq_of_getLsbD_eq; intro k hk
  simp only [wordOfBytes, hiByte, loByte, BitVec.getLsbD_extractLsb', BitVec.getLsbD_append]
  by_cases h : k < 8
  · simp [h]
  · have h1 : k - 8 < 8 := by omega
    have h2 : 8 + (k - 8) = k := by omega
    simp [h, h1, h2]

/-- Every instruction's operands lie in their ranges (R74): the fields' types say so. -/
theorem wellFormed_all (i : Instr) : i.wellFormed = true := by
  cases i <;> simp [Instr.wellFormed, WellFormed.regNumber, WellFormed.rowCount, WellFormed.byteValue,
    WellFormed.addrValue] <;> omega

end Sys2Proof
end

