-- ==== Sys2Proof/Laws/Grid.lean ====
section
/-! SUPPORT. The laws of the display grid: a pixel after a toggle, and the size that every drawing keeps
(44_display.md R170, R172, R173). -/

namespace Sys2Proof.Machine

theorem Grid.toggle_sized {w h : Nat} {g : List (List Bool)} (r c : Nat) (hg : Grid.sized w h g) :
    Grid.sized w h (Grid.toggle g r c) := by
  refine ⟨by simp [Grid.toggle, hg.1], fun row hrow => ?_⟩
  obtain ⟨k, hk, rfl⟩ := List.getElem_of_mem hrow
  have hk' : k < g.length := by simpa [Grid.toggle] using hk
  simp only [Grid.toggle, List.getElem_modify]
  split <;> simp [hg.2 _ (List.getElem_mem hk')]

/-- A toggle inside the grid inverts that pixel and leaves every other one. -/
theorem Grid.pixel_toggle {w h : Nat} {g : List (List Bool)} (hg : Grid.sized w h g) {r c : Nat}
    (hr : r < h) (hc : c < w) (r' c' : Nat) :
    Grid.pixel (Grid.toggle g r c) r' c' =
      if r' = r ∧ c' = c then !Grid.pixel g r c else Grid.pixel g r' c' := by
  have hlen : r < g.length := by rw [hg.1]; exact hr
  have hrow : (g[r]'hlen).length = w := hg.2 _ (List.getElem_mem hlen)
  simp only [Grid.pixel, Grid.toggle, List.getElem?_modify]
  by_cases h1 : r = r'
  · subst h1
    simp only [List.getElem?_eq_getElem hlen, Option.getD_some, if_true, true_and]
    by_cases h2 : c = c'
    · subst h2
      have hcl : c < (g[r]'hlen).length := by rw [hrow]; exact hc
      simp [List.getElem?_eq_getElem hcl]
    · simp [h2, Ne.symm h2]
  · simp [h1, Ne.symm h1]

/-- A blank display has its size. -/
theorem blankDisplay_sized (w h : Nat) : Grid.sized w h (blankDisplay w h) := by
  refine ⟨by simp [blankDisplay], fun row hrow => ?_⟩
  simp [List.eq_of_mem_replicate hrow]

/-- Every pixel of a blank display is off. -/
theorem pixel_blankDisplay (w h r c : Nat) : Grid.pixel (blankDisplay w h) r c = false := by
  simp only [Grid.pixel, blankDisplay, List.getElem?_replicate]
  by_cases hr : r < h <;> by_cases hc : c < w <;> simp [hr, hc]

theorem Grid.plotPixel_sized {w h : Nat} (px py : Nat) {d : List (List Bool) × Bool}
    (hd : Grid.sized w h d.1) : Grid.sized w h (Grid.plotPixel w h px py d).1 := by
  unfold Grid.plotPixel
  split
  · exact Grid.toggle_sized _ _ hd
  · exact hd

theorem Grid.plotColumns_sized {w h : Nat} (x0 py : Nat) (b : Byte) (k c : Nat)
    {d : List (List Bool) × Bool} (hd : Grid.sized w h d.1) :
    Grid.sized w h (Grid.plotColumns w h x0 py b k c d).1 := by
  induction k generalizing c d with
  | zero => exact hd
  | succ k ih =>
    refine ih _ ?_
    split
    · exact Grid.plotPixel_sized _ _ hd
    · exact hd

/-- Drawing a sprite keeps the display's size. -/
theorem Grid.plotRows_sized {w h : Nat} (x0 py : Nat) (rows : List Byte)
    {d : List (List Bool) × Bool} (hd : Grid.sized w h d.1) :
    Grid.sized w h (Grid.plotRows w h x0 py rows d).1 := by
  induction rows generalizing py d with
  | nil => exact hd
  | cons b rows ih => exact ih _ (Grid.plotColumns_sized x0 py b 8 0 hd)

end Sys2Proof.Machine
end

