-- ==== Sys2Proof/Laws/State.lean ====
section
/-! SUPPORT. Every field after every update of the state, each true by definition, so that no proof
unfolds a record update. -/

namespace Sys2Proof.Machine

section
variable (s : State) (r : Nibble) (b : Byte)
@[simp] theorem State.writeV_V : (s.writeV r b).V = s.V.set r.toNat b r.isLt := rfl
@[simp] theorem State.writeV_I : (s.writeV r b).I = s.I := rfl
@[simp] theorem State.writeV_pc : (s.writeV r b).pc = s.pc := rfl
@[simp] theorem State.writeV_stack : (s.writeV r b).stack = s.stack := rfl
@[simp] theorem State.writeV_sp : (s.writeV r b).sp = s.sp := rfl
@[simp] theorem State.writeV_DT : (s.writeV r b).DT = s.DT := rfl
@[simp] theorem State.writeV_ST : (s.writeV r b).ST = s.ST := rfl
@[simp] theorem State.writeV_mem : (s.writeV r b).mem = s.mem := rfl
@[simp] theorem State.writeV_disp : (s.writeV r b).disp = s.disp := rfl
@[simp] theorem State.writeV_fc : (s.writeV r b).fc = s.fc := rfl
@[simp] theorem State.writeV_key : (s.writeV r b).key = s.key := rfl
@[simp] theorem State.writeV_fault : (s.writeV r b).fault = s.fault := rfl
@[simp] theorem State.writeV_draws : (s.writeV r b).draws = s.draws := rfl
@[simp] theorem State.writeV_cfg : (s.writeV r b).cfg = s.cfg := rfl
end

section
variable (s : State) (f : Bool)
@[simp] theorem State.writeVF_V : (s.writeVF f).V = s.V.set 15 (flagByte f) := rfl
@[simp] theorem State.writeVF_I : (s.writeVF f).I = s.I := rfl
@[simp] theorem State.writeVF_pc : (s.writeVF f).pc = s.pc := rfl
@[simp] theorem State.writeVF_stack : (s.writeVF f).stack = s.stack := rfl
@[simp] theorem State.writeVF_sp : (s.writeVF f).sp = s.sp := rfl
@[simp] theorem State.writeVF_DT : (s.writeVF f).DT = s.DT := rfl
@[simp] theorem State.writeVF_ST : (s.writeVF f).ST = s.ST := rfl
@[simp] theorem State.writeVF_mem : (s.writeVF f).mem = s.mem := rfl
@[simp] theorem State.writeVF_disp : (s.writeVF f).disp = s.disp := rfl
@[simp] theorem State.writeVF_fc : (s.writeVF f).fc = s.fc := rfl
@[simp] theorem State.writeVF_key : (s.writeVF f).key = s.key := rfl
@[simp] theorem State.writeVF_fault : (s.writeVF f).fault = s.fault := rfl
@[simp] theorem State.writeVF_draws : (s.writeVF f).draws = s.draws := rfl
@[simp] theorem State.writeVF_cfg : (s.writeVF f).cfg = s.cfg := rfl
end

section
variable (s : State) (v : Word)
@[simp] theorem State.writeI_V : (s.writeI v).V = s.V := rfl
@[simp] theorem State.writeI_I : (s.writeI v).I = v := rfl
@[simp] theorem State.writeI_pc : (s.writeI v).pc = s.pc := rfl
@[simp] theorem State.writeI_stack : (s.writeI v).stack = s.stack := rfl
@[simp] theorem State.writeI_sp : (s.writeI v).sp = s.sp := rfl
@[simp] theorem State.writeI_DT : (s.writeI v).DT = s.DT := rfl
@[simp] theorem State.writeI_ST : (s.writeI v).ST = s.ST := rfl
@[simp] theorem State.writeI_mem : (s.writeI v).mem = s.mem := rfl
@[simp] theorem State.writeI_disp : (s.writeI v).disp = s.disp := rfl
@[simp] theorem State.writeI_fc : (s.writeI v).fc = s.fc := rfl
@[simp] theorem State.writeI_key : (s.writeI v).key = s.key := rfl
@[simp] theorem State.writeI_fault : (s.writeI v).fault = s.fault := rfl
@[simp] theorem State.writeI_draws : (s.writeI v).draws = s.draws := rfl
@[simp] theorem State.writeI_cfg : (s.writeI v).cfg = s.cfg := rfl
end

section
variable (s : State) (v : Word)
@[simp] theorem State.writePc_V : (s.writePc v).V = s.V := rfl
@[simp] theorem State.writePc_I : (s.writePc v).I = s.I := rfl
@[simp] theorem State.writePc_pc : (s.writePc v).pc = v := rfl
@[simp] theorem State.writePc_stack : (s.writePc v).stack = s.stack := rfl
@[simp] theorem State.writePc_sp : (s.writePc v).sp = s.sp := rfl
@[simp] theorem State.writePc_DT : (s.writePc v).DT = s.DT := rfl
@[simp] theorem State.writePc_ST : (s.writePc v).ST = s.ST := rfl
@[simp] theorem State.writePc_mem : (s.writePc v).mem = s.mem := rfl
@[simp] theorem State.writePc_disp : (s.writePc v).disp = s.disp := rfl
@[simp] theorem State.writePc_fc : (s.writePc v).fc = s.fc := rfl
@[simp] theorem State.writePc_key : (s.writePc v).key = s.key := rfl
@[simp] theorem State.writePc_fault : (s.writePc v).fault = s.fault := rfl
@[simp] theorem State.writePc_draws : (s.writePc v).draws = s.draws := rfl
@[simp] theorem State.writePc_cfg : (s.writePc v).cfg = s.cfg := rfl
end

section
variable (s : State) (k : Word)
@[simp] theorem State.advance_V : (s.advance k).V = s.V := rfl
@[simp] theorem State.advance_I : (s.advance k).I = s.I := rfl
@[simp] theorem State.advance_pc : (s.advance k).pc = s.pc + k := rfl
@[simp] theorem State.advance_stack : (s.advance k).stack = s.stack := rfl
@[simp] theorem State.advance_sp : (s.advance k).sp = s.sp := rfl
@[simp] theorem State.advance_DT : (s.advance k).DT = s.DT := rfl
@[simp] theorem State.advance_ST : (s.advance k).ST = s.ST := rfl
@[simp] theorem State.advance_mem : (s.advance k).mem = s.mem := rfl
@[simp] theorem State.advance_disp : (s.advance k).disp = s.disp := rfl
@[simp] theorem State.advance_fc : (s.advance k).fc = s.fc := rfl
@[simp] theorem State.advance_key : (s.advance k).key = s.key := rfl
@[simp] theorem State.advance_fault : (s.advance k).fault = s.fault := rfl
@[simp] theorem State.advance_draws : (s.advance k).draws = s.draws := rfl
@[simp] theorem State.advance_cfg : (s.advance k).cfg = s.cfg := rfl
end

section
variable (s : State) (v : Byte)
@[simp] theorem State.writeDT_V : (s.writeDT v).V = s.V := rfl
@[simp] theorem State.writeDT_I : (s.writeDT v).I = s.I := rfl
@[simp] theorem State.writeDT_pc : (s.writeDT v).pc = s.pc := rfl
@[simp] theorem State.writeDT_stack : (s.writeDT v).stack = s.stack := rfl
@[simp] theorem State.writeDT_sp : (s.writeDT v).sp = s.sp := rfl
@[simp] theorem State.writeDT_DT : (s.writeDT v).DT = v := rfl
@[simp] theorem State.writeDT_ST : (s.writeDT v).ST = s.ST := rfl
@[simp] theorem State.writeDT_mem : (s.writeDT v).mem = s.mem := rfl
@[simp] theorem State.writeDT_disp : (s.writeDT v).disp = s.disp := rfl
@[simp] theorem State.writeDT_fc : (s.writeDT v).fc = s.fc := rfl
@[simp] theorem State.writeDT_key : (s.writeDT v).key = s.key := rfl
@[simp] theorem State.writeDT_fault : (s.writeDT v).fault = s.fault := rfl
@[simp] theorem State.writeDT_draws : (s.writeDT v).draws = s.draws := rfl
@[simp] theorem State.writeDT_cfg : (s.writeDT v).cfg = s.cfg := rfl
end

section
variable (s : State) (v : Byte)
@[simp] theorem State.writeST_V : (s.writeST v).V = s.V := rfl
@[simp] theorem State.writeST_I : (s.writeST v).I = s.I := rfl
@[simp] theorem State.writeST_pc : (s.writeST v).pc = s.pc := rfl
@[simp] theorem State.writeST_stack : (s.writeST v).stack = s.stack := rfl
@[simp] theorem State.writeST_sp : (s.writeST v).sp = s.sp := rfl
@[simp] theorem State.writeST_DT : (s.writeST v).DT = s.DT := rfl
@[simp] theorem State.writeST_ST : (s.writeST v).ST = v := rfl
@[simp] theorem State.writeST_mem : (s.writeST v).mem = s.mem := rfl
@[simp] theorem State.writeST_disp : (s.writeST v).disp = s.disp := rfl
@[simp] theorem State.writeST_fc : (s.writeST v).fc = s.fc := rfl
@[simp] theorem State.writeST_key : (s.writeST v).key = s.key := rfl
@[simp] theorem State.writeST_fault : (s.writeST v).fault = s.fault := rfl
@[simp] theorem State.writeST_draws : (s.writeST v).draws = s.draws := rfl
@[simp] theorem State.writeST_cfg : (s.writeST v).cfg = s.cfg := rfl
end

section
variable (s : State) (v : Word) (h : s.sp.val < 16)
@[simp] theorem State.push_V : (s.push v h).V = s.V := rfl
@[simp] theorem State.push_I : (s.push v h).I = s.I := rfl
@[simp] theorem State.push_pc : (s.push v h).pc = s.pc := rfl
@[simp] theorem State.push_stack : (s.push v h).stack = s.stack.set s.sp.val v h := rfl
@[simp] theorem State.push_sp : (s.push v h).sp = ⟨s.sp.val + 1, by omega⟩ := rfl
@[simp] theorem State.push_DT : (s.push v h).DT = s.DT := rfl
@[simp] theorem State.push_ST : (s.push v h).ST = s.ST := rfl
@[simp] theorem State.push_mem : (s.push v h).mem = s.mem := rfl
@[simp] theorem State.push_disp : (s.push v h).disp = s.disp := rfl
@[simp] theorem State.push_fc : (s.push v h).fc = s.fc := rfl
@[simp] theorem State.push_key : (s.push v h).key = s.key := rfl
@[simp] theorem State.push_fault : (s.push v h).fault = s.fault := rfl
@[simp] theorem State.push_draws : (s.push v h).draws = s.draws := rfl
@[simp] theorem State.push_cfg : (s.push v h).cfg = s.cfg := rfl
end

section
variable (s : State) (h : 0 < s.sp.val)
@[simp] theorem State.pop_V : (s.pop h).V = s.V := rfl
@[simp] theorem State.pop_I : (s.pop h).I = s.I := rfl
@[simp] theorem State.pop_pc : (s.pop h).pc = s.pc := rfl
@[simp] theorem State.pop_stack : (s.pop h).stack = s.stack := rfl
@[simp] theorem State.pop_sp : (s.pop h).sp = ⟨s.sp.val - 1, by omega⟩ := rfl
@[simp] theorem State.pop_DT : (s.pop h).DT = s.DT := rfl
@[simp] theorem State.pop_ST : (s.pop h).ST = s.ST := rfl
@[simp] theorem State.pop_mem : (s.pop h).mem = s.mem := rfl
@[simp] theorem State.pop_disp : (s.pop h).disp = s.disp := rfl
@[simp] theorem State.pop_fc : (s.pop h).fc = s.fc := rfl
@[simp] theorem State.pop_key : (s.pop h).key = s.key := rfl
@[simp] theorem State.pop_fault : (s.pop h).fault = s.fault := rfl
@[simp] theorem State.pop_draws : (s.pop h).draws = s.draws := rfl
@[simp] theorem State.pop_cfg : (s.pop h).cfg = s.cfg := rfl
end

section
variable (s : State) (a : Nat) (b : Byte)
@[simp] theorem State.writeByte_V : (s.writeByte a b).V = s.V := rfl
@[simp] theorem State.writeByte_I : (s.writeByte a b).I = s.I := rfl
@[simp] theorem State.writeByte_pc : (s.writeByte a b).pc = s.pc := rfl
@[simp] theorem State.writeByte_stack : (s.writeByte a b).stack = s.stack := rfl
@[simp] theorem State.writeByte_sp : (s.writeByte a b).sp = s.sp := rfl
@[simp] theorem State.writeByte_DT : (s.writeByte a b).DT = s.DT := rfl
@[simp] theorem State.writeByte_ST : (s.writeByte a b).ST = s.ST := rfl
@[simp] theorem State.writeByte_mem : (s.writeByte a b).mem = Memory.write s.cfg.font s.mem a b := rfl
@[simp] theorem State.writeByte_disp : (s.writeByte a b).disp = s.disp := rfl
@[simp] theorem State.writeByte_fc : (s.writeByte a b).fc = s.fc := rfl
@[simp] theorem State.writeByte_key : (s.writeByte a b).key = s.key := rfl
@[simp] theorem State.writeByte_fault : (s.writeByte a b).fault = s.fault := rfl
@[simp] theorem State.writeByte_draws : (s.writeByte a b).draws = s.draws := rfl
@[simp] theorem State.writeByte_cfg : (s.writeByte a b).cfg = s.cfg := rfl
end

section
variable (s : State) (d : List (List Bool))
@[simp] theorem State.writeDisplay_V : (s.writeDisplay d).V = s.V := rfl
@[simp] theorem State.writeDisplay_I : (s.writeDisplay d).I = s.I := rfl
@[simp] theorem State.writeDisplay_pc : (s.writeDisplay d).pc = s.pc := rfl
@[simp] theorem State.writeDisplay_stack : (s.writeDisplay d).stack = s.stack := rfl
@[simp] theorem State.writeDisplay_sp : (s.writeDisplay d).sp = s.sp := rfl
@[simp] theorem State.writeDisplay_DT : (s.writeDisplay d).DT = s.DT := rfl
@[simp] theorem State.writeDisplay_ST : (s.writeDisplay d).ST = s.ST := rfl
@[simp] theorem State.writeDisplay_mem : (s.writeDisplay d).mem = s.mem := rfl
@[simp] theorem State.writeDisplay_disp : (s.writeDisplay d).disp = d := rfl
@[simp] theorem State.writeDisplay_fc : (s.writeDisplay d).fc = true := rfl
@[simp] theorem State.writeDisplay_key : (s.writeDisplay d).key = s.key := rfl
@[simp] theorem State.writeDisplay_fault : (s.writeDisplay d).fault = s.fault := rfl
@[simp] theorem State.writeDisplay_draws : (s.writeDisplay d).draws = s.draws := rfl
@[simp] theorem State.writeDisplay_cfg : (s.writeDisplay d).cfg = s.cfg := rfl
end

section
variable (s : State)
@[simp] theorem State.nextDraw_V : s.nextDraw.V = s.V := rfl
@[simp] theorem State.nextDraw_I : s.nextDraw.I = s.I := rfl
@[simp] theorem State.nextDraw_pc : s.nextDraw.pc = s.pc := rfl
@[simp] theorem State.nextDraw_stack : s.nextDraw.stack = s.stack := rfl
@[simp] theorem State.nextDraw_sp : s.nextDraw.sp = s.sp := rfl
@[simp] theorem State.nextDraw_DT : s.nextDraw.DT = s.DT := rfl
@[simp] theorem State.nextDraw_ST : s.nextDraw.ST = s.ST := rfl
@[simp] theorem State.nextDraw_mem : s.nextDraw.mem = s.mem := rfl
@[simp] theorem State.nextDraw_disp : s.nextDraw.disp = s.disp := rfl
@[simp] theorem State.nextDraw_fc : s.nextDraw.fc = s.fc := rfl
@[simp] theorem State.nextDraw_key : s.nextDraw.key = s.key := rfl
@[simp] theorem State.nextDraw_fault : s.nextDraw.fault = s.fault := rfl
@[simp] theorem State.nextDraw_draws : s.nextDraw.draws = s.draws + 1 := rfl
@[simp] theorem State.nextDraw_cfg : s.nextDraw.cfg = s.cfg := rfl
end

section
variable (s : State) (c : FaultCause) (w : Option Word)
@[simp] theorem State.raiseFault_V : (s.raiseFault c w).V = s.V := rfl
@[simp] theorem State.raiseFault_I : (s.raiseFault c w).I = s.I := rfl
@[simp] theorem State.raiseFault_pc : (s.raiseFault c w).pc = s.pc := rfl
@[simp] theorem State.raiseFault_stack : (s.raiseFault c w).stack = s.stack := rfl
@[simp] theorem State.raiseFault_sp : (s.raiseFault c w).sp = s.sp := rfl
@[simp] theorem State.raiseFault_DT : (s.raiseFault c w).DT = s.DT := rfl
@[simp] theorem State.raiseFault_ST : (s.raiseFault c w).ST = s.ST := rfl
@[simp] theorem State.raiseFault_mem : (s.raiseFault c w).mem = s.mem := rfl
@[simp] theorem State.raiseFault_disp : (s.raiseFault c w).disp = s.disp := rfl
@[simp] theorem State.raiseFault_fc : (s.raiseFault c w).fc = s.fc := rfl
@[simp] theorem State.raiseFault_key : (s.raiseFault c w).key = s.key := rfl
@[simp] theorem State.raiseFault_fault : (s.raiseFault c w).fault = some { cause := c, atPc := s.pc, word := w } := rfl
@[simp] theorem State.raiseFault_draws : (s.raiseFault c w).draws = s.draws := rfl
@[simp] theorem State.raiseFault_cfg : (s.raiseFault c w).cfg = s.cfg := rfl
end

section
variable (s : State)
@[simp] theorem State.tick_V : s.tick.V = s.V := rfl
@[simp] theorem State.tick_I : s.tick.I = s.I := rfl
@[simp] theorem State.tick_pc : s.tick.pc = s.pc := rfl
@[simp] theorem State.tick_stack : s.tick.stack = s.stack := rfl
@[simp] theorem State.tick_sp : s.tick.sp = s.sp := rfl
@[simp] theorem State.tick_DT : s.tick.DT = tickDown s.DT := rfl
@[simp] theorem State.tick_ST : s.tick.ST = tickDown s.ST := rfl
@[simp] theorem State.tick_mem : s.tick.mem = s.mem := rfl
@[simp] theorem State.tick_disp : s.tick.disp = s.disp := rfl
@[simp] theorem State.tick_fc : s.tick.fc = s.fc := rfl
@[simp] theorem State.tick_key : s.tick.key = s.key := rfl
@[simp] theorem State.tick_fault : s.tick.fault = s.fault := rfl
@[simp] theorem State.tick_draws : s.tick.draws = s.draws := rfl
@[simp] theorem State.tick_cfg : s.tick.cfg = s.cfg := rfl
end

section
variable (k : Nibble) (d : Bool) (s : State)
@[simp] theorem hostSetKey_V : (hostSetKey k d s).V = s.V := rfl
@[simp] theorem hostSetKey_I : (hostSetKey k d s).I = s.I := rfl
@[simp] theorem hostSetKey_pc : (hostSetKey k d s).pc = s.pc := rfl
@[simp] theorem hostSetKey_stack : (hostSetKey k d s).stack = s.stack := rfl
@[simp] theorem hostSetKey_sp : (hostSetKey k d s).sp = s.sp := rfl
@[simp] theorem hostSetKey_DT : (hostSetKey k d s).DT = s.DT := rfl
@[simp] theorem hostSetKey_ST : (hostSetKey k d s).ST = s.ST := rfl
@[simp] theorem hostSetKey_mem : (hostSetKey k d s).mem = s.mem := rfl
@[simp] theorem hostSetKey_disp : (hostSetKey k d s).disp = s.disp := rfl
@[simp] theorem hostSetKey_fc : (hostSetKey k d s).fc = s.fc := rfl
@[simp] theorem hostSetKey_key : (hostSetKey k d s).key = s.key.set k.toNat d k.isLt := rfl
@[simp] theorem hostSetKey_fault : (hostSetKey k d s).fault = s.fault := rfl
@[simp] theorem hostSetKey_draws : (hostSetKey k d s).draws = s.draws := rfl
@[simp] theorem hostSetKey_cfg : (hostSetKey k d s).cfg = s.cfg := rfl
end

section
variable (s : State)
@[simp] theorem hostAckFrame_V : (hostAckFrame s).V = s.V := rfl
@[simp] theorem hostAckFrame_I : (hostAckFrame s).I = s.I := rfl
@[simp] theorem hostAckFrame_pc : (hostAckFrame s).pc = s.pc := rfl
@[simp] theorem hostAckFrame_stack : (hostAckFrame s).stack = s.stack := rfl
@[simp] theorem hostAckFrame_sp : (hostAckFrame s).sp = s.sp := rfl
@[simp] theorem hostAckFrame_DT : (hostAckFrame s).DT = s.DT := rfl
@[simp] theorem hostAckFrame_ST : (hostAckFrame s).ST = s.ST := rfl
@[simp] theorem hostAckFrame_mem : (hostAckFrame s).mem = s.mem := rfl
@[simp] theorem hostAckFrame_disp : (hostAckFrame s).disp = s.disp := rfl
@[simp] theorem hostAckFrame_fc : (hostAckFrame s).fc = false := rfl
@[simp] theorem hostAckFrame_key : (hostAckFrame s).key = s.key := rfl
@[simp] theorem hostAckFrame_fault : (hostAckFrame s).fault = s.fault := rfl
@[simp] theorem hostAckFrame_draws : (hostAckFrame s).draws = s.draws := rfl
@[simp] theorem hostAckFrame_cfg : (hostAckFrame s).cfg = s.cfg := rfl
end

section
variable (c : Config) (d : Nat)
@[simp] theorem State.resetWith_V : (State.resetWith c d).V = Vector.replicate 16 0 := rfl
@[simp] theorem State.resetWith_I : (State.resetWith c d).I = 0 := rfl
@[simp] theorem State.resetWith_pc : (State.resetWith c d).pc = 0x200 := rfl
@[simp] theorem State.resetWith_stack : (State.resetWith c d).stack = Vector.replicate 16 0 := rfl
@[simp] theorem State.resetWith_sp : (State.resetWith c d).sp = 0 := rfl
@[simp] theorem State.resetWith_DT : (State.resetWith c d).DT = 0 := rfl
@[simp] theorem State.resetWith_ST : (State.resetWith c d).ST = 0 := rfl
@[simp] theorem State.resetWith_mem : (State.resetWith c d).mem = [] := rfl
@[simp] theorem State.resetWith_disp : (State.resetWith c d).disp = blankDisplay c.dispW c.dispH := rfl
@[simp] theorem State.resetWith_fc : (State.resetWith c d).fc = false := rfl
@[simp] theorem State.resetWith_key : (State.resetWith c d).key = Vector.replicate 16 false := rfl
@[simp] theorem State.resetWith_fault : (State.resetWith c d).fault = none := rfl
@[simp] theorem State.resetWith_draws : (State.resetWith c d).draws = d := rfl
@[simp] theorem State.resetWith_cfg : (State.resetWith c d).cfg = c := rfl
end

/-! Every field after the two repeated updates: storing bytes touches `mem` only, loading registers `V`
only. -/

@[simp] theorem State.storeBytes_V (s : State) (k : Nat) (bs : List Byte) : (s.storeBytes k bs).V = s.V := by
  induction bs generalizing s k with
  | nil => rfl
  | cons b bs ih => simp [State.storeBytes, ih]
@[simp] theorem State.storeBytes_I (s : State) (k : Nat) (bs : List Byte) : (s.storeBytes k bs).I = s.I := by
  induction bs generalizing s k with
  | nil => rfl
  | cons b bs ih => simp [State.storeBytes, ih]
@[simp] theorem State.storeBytes_pc (s : State) (k : Nat) (bs : List Byte) : (s.storeBytes k bs).pc = s.pc := by
  induction bs generalizing s k with
  | nil => rfl
  | cons b bs ih => simp [State.storeBytes, ih]
@[simp] theorem State.storeBytes_stack (s : State) (k : Nat) (bs : List Byte) : (s.storeBytes k bs).stack = s.stack := by
  induction bs generalizing s k with
  | nil => rfl
  | cons b bs ih => simp [State.storeBytes, ih]
@[simp] theorem State.storeBytes_sp (s : State) (k : Nat) (bs : List Byte) : (s.storeBytes k bs).sp = s.sp := by
  induction bs generalizing s k with
  | nil => rfl
  | cons b bs ih => simp [State.storeBytes, ih]
@[simp] theorem State.storeBytes_DT (s : State) (k : Nat) (bs : List Byte) : (s.storeBytes k bs).DT = s.DT := by
  induction bs generalizing s k with
  | nil => rfl
  | cons b bs ih => simp [State.storeBytes, ih]
@[simp] theorem State.storeBytes_ST (s : State) (k : Nat) (bs : List Byte) : (s.storeBytes k bs).ST = s.ST := by
  induction bs generalizing s k with
  | nil => rfl
  | cons b bs ih => simp [State.storeBytes, ih]
@[simp] theorem State.storeBytes_disp (s : State) (k : Nat) (bs : List Byte) : (s.storeBytes k bs).disp = s.disp := by
  induction bs generalizing s k with
  | nil => rfl
  | cons b bs ih => simp [State.storeBytes, ih]
@[simp] theorem State.storeBytes_fc (s : State) (k : Nat) (bs : List Byte) : (s.storeBytes k bs).fc = s.fc := by
  induction bs generalizing s k with
  | nil => rfl
  | cons b bs ih => simp [State.storeBytes, ih]
@[simp] theorem State.storeBytes_key (s : State) (k : Nat) (bs : List Byte) : (s.storeBytes k bs).key = s.key := by
  induction bs generalizing s k with
  | nil => rfl
  | cons b bs ih => simp [State.storeBytes, ih]
@[simp] theorem State.storeBytes_fault (s : State) (k : Nat) (bs : List Byte) : (s.storeBytes k bs).fault = s.fault := by
  induction bs generalizing s k with
  | nil => rfl
  | cons b bs ih => simp [State.storeBytes, ih]
@[simp] theorem State.storeBytes_draws (s : State) (k : Nat) (bs : List Byte) : (s.storeBytes k bs).draws = s.draws := by
  induction bs generalizing s k with
  | nil => rfl
  | cons b bs ih => simp [State.storeBytes, ih]
@[simp] theorem State.storeBytes_cfg (s : State) (k : Nat) (bs : List Byte) : (s.storeBytes k bs).cfg = s.cfg := by
  induction bs generalizing s k with
  | nil => rfl
  | cons b bs ih => simp [State.storeBytes, ih]
@[simp] theorem State.writeRegs_I (s : State) (k : Nat) (bs : List Byte) : (s.writeRegs k bs).I = s.I := by
  induction bs generalizing s k with
  | nil => rfl
  | cons b bs ih => simp [State.writeRegs, ih]
@[simp] theorem State.writeRegs_pc (s : State) (k : Nat) (bs : List Byte) : (s.writeRegs k bs).pc = s.pc := by
  induction bs generalizing s k with
  | nil => rfl
  | cons b bs ih => simp [State.writeRegs, ih]
@[simp] theorem State.writeRegs_stack (s : State) (k : Nat) (bs : List Byte) : (s.writeRegs k bs).stack = s.stack := by
  induction bs generalizing s k with
  | nil => rfl
  | cons b bs ih => simp [State.writeRegs, ih]
@[simp] theorem State.writeRegs_sp (s : State) (k : Nat) (bs : List Byte) : (s.writeRegs k bs).sp = s.sp := by
  induction bs generalizing s k with
  | nil => rfl
  | cons b bs ih => simp [State.writeRegs, ih]
@[simp] theorem State.writeRegs_DT (s : State) (k : Nat) (bs : List Byte) : (s.writeRegs k bs).DT = s.DT := by
  induction bs generalizing s k with
  | nil => rfl
  | cons b bs ih => simp [State.writeRegs, ih]
@[simp] theorem State.writeRegs_ST (s : State) (k : Nat) (bs : List Byte) : (s.writeRegs k bs).ST = s.ST := by
  induction bs generalizing s k with
  | nil => rfl
  | cons b bs ih => simp [State.writeRegs, ih]
@[simp] theorem State.writeRegs_mem (s : State) (k : Nat) (bs : List Byte) : (s.writeRegs k bs).mem = s.mem := by
  induction bs generalizing s k with
  | nil => rfl
  | cons b bs ih => simp [State.writeRegs, ih]
@[simp] theorem State.writeRegs_disp (s : State) (k : Nat) (bs : List Byte) : (s.writeRegs k bs).disp = s.disp := by
  induction bs generalizing s k with
  | nil => rfl
  | cons b bs ih => simp [State.writeRegs, ih]
@[simp] theorem State.writeRegs_fc (s : State) (k : Nat) (bs : List Byte) : (s.writeRegs k bs).fc = s.fc := by
  induction bs generalizing s k with
  | nil => rfl
  | cons b bs ih => simp [State.writeRegs, ih]
@[simp] theorem State.writeRegs_key (s : State) (k : Nat) (bs : List Byte) : (s.writeRegs k bs).key = s.key := by
  induction bs generalizing s k with
  | nil => rfl
  | cons b bs ih => simp [State.writeRegs, ih]
@[simp] theorem State.writeRegs_fault (s : State) (k : Nat) (bs : List Byte) : (s.writeRegs k bs).fault = s.fault := by
  induction bs generalizing s k with
  | nil => rfl
  | cons b bs ih => simp [State.writeRegs, ih]
@[simp] theorem State.writeRegs_draws (s : State) (k : Nat) (bs : List Byte) : (s.writeRegs k bs).draws = s.draws := by
  induction bs generalizing s k with
  | nil => rfl
  | cons b bs ih => simp [State.writeRegs, ih]
@[simp] theorem State.writeRegs_cfg (s : State) (k : Nat) (bs : List Byte) : (s.writeRegs k bs).cfg = s.cfg := by
  induction bs generalizing s k with
  | nil => rfl
  | cons b bs ih => simp [State.writeRegs, ih]

end Sys2Proof.Machine
end

