-- ==== Sys2Proof/Laws/Memory.lean ====
section
/-! SUPPORT. The laws of memory (20_memory.md R56, R57): a read after a write, and the canonical form
that every memory operation keeps. -/

namespace Sys2Proof.Machine

theorem Memory.read_insert (font : Vector Byte 80) (m : List Host.Cell) (a a' : Nat) (b : Byte) :
    Memory.read font (Memory.insert a b m) a' = if a' = a then b else Memory.read font m a' := by
  induction m with
  | nil =>
    by_cases h : a' = a
    · simp [Memory.insert, Memory.read, h]
    · simp [Memory.insert, Memory.read, h, Ne.symm h]
  | cons c m ih =>
    unfold Memory.insert
    split
    · rename_i hlt
      by_cases h : a' = a
      · subst h
        have : c.1 ≠ a' := by omega
        simp [Memory.read, this, ih]
      · simp [Memory.read, ih, h]
    · split
      · rename_i hge heq
        by_cases h : a' = a
        · simp [Memory.read, h]
        · have h1 : ¬ c.1 = a' := by omega
          simp [Memory.read, h, h1, Ne.symm h]
      · by_cases h : a' = a
        · simp [Memory.read, h]
        · simp [Memory.read, h, Ne.symm h]

theorem Memory.read_erase (font : Vector Byte 80) (m : List Host.Cell) (a a' : Nat) :
    Memory.read font (Memory.erase a m) a' =
      if a' = a then Memory.unlisted font a else Memory.read font m a' := by
  induction m with
  | nil =>
    by_cases h : a' = a <;> simp [Memory.erase, Memory.read, h]
  | cons c m ih =>
    have ih' : Memory.read font (m.filter (fun c => decide (c.1 ≠ a))) a' = _ := ih
    by_cases hc : c.1 = a
    · have : Memory.erase a (c :: m) = Memory.erase a m := by simp [Memory.erase, hc]
      rw [this, ih]
      by_cases h : a' = a
      · simp [h]
      · have : ¬ c.1 = a' := by omega
        simp [Memory.read, h, this]
    · have : Memory.erase a (c :: m) = c :: Memory.erase a m := by simp [Memory.erase, hc]
      rw [this, Memory.read, ih]
      by_cases h : a' = a
      · simp [h, hc]
      · simp [Memory.read, h]

/-- A read after a write: the byte written at an address that exists, and every other byte as before
(20_memory.md R57). -/
theorem Memory.read_write (font : Vector Byte 80) (m : List Host.Cell) (a a' : Nat) (b : Byte) :
    Memory.read font (Memory.write font m a b) a' =
      if a' = a ∧ a < 4096 then b else Memory.read font m a' := by
  unfold Memory.write
  by_cases hlt : a < 4096
  · by_cases hb : b = Memory.unlisted font a
    · by_cases h : a' = a
      · simp [hlt, hb, Memory.read_erase, h]
      · simp [hlt, hb, Memory.read_erase, h]
    · by_cases h : a' = a
      · simp [hlt, hb, Memory.read_insert, h]
      · simp [hlt, hb, Memory.read_insert, h]
  · simp [hlt]

theorem Memory.mem_insert {m : List Host.Cell} {a : Nat} {b : Byte} {c : Host.Cell}
    (h : c ∈ Memory.insert a b m) : c = (a, b) ∨ c ∈ m := by
  induction m with
  | nil => simpa [Memory.insert] using h
  | cons d m ih =>
    unfold Memory.insert at h
    split at h
    · rcases List.mem_cons.1 h with rfl | h
      · simp
      · rcases ih h with h | h <;> simp [h]
    · split at h
      · rcases List.mem_cons.1 h with h | h <;> simp [h]
      · rcases List.mem_cons.1 h with h | h
        · simp [h]
        · exact Or.inr h

theorem Memory.insert_sorted {m : List Host.Cell} (a : Nat) (b : Byte)
    (h : m.Pairwise (fun c d => c.1 < d.1)) :
    (Memory.insert a b m).Pairwise (fun c d => c.1 < d.1) := by
  induction m with
  | nil => simp [Memory.insert]
  | cons c m ih =>
    obtain ⟨hc, hm⟩ := List.pairwise_cons.1 h
    unfold Memory.insert
    split
    · rename_i hlt
      refine List.pairwise_cons.2 ⟨fun d hd => ?_, ih hm⟩
      rcases Memory.mem_insert hd with rfl | hd
      · exact hlt
      · exact hc d hd
    · split
      · rename_i heq
        exact List.pairwise_cons.2 ⟨fun d hd => by have := hc d hd; omega, hm⟩
      · rename_i hge hne
        refine List.pairwise_cons.2 ⟨fun d hd => ?_, h⟩
        rcases List.mem_cons.1 hd with rfl | hd
        · show a < d.1; omega
        · have := hc d hd; show a < d.1; omega

/-- A write keeps the canonical form. -/
theorem Memory.write_wf {font : Vector Byte 80} {m : List Host.Cell} (a : Nat) (b : Byte)
    (h : Memory.wf font m) : Memory.wf font (Memory.write font m a b) := by
  unfold Memory.write
  split
  · rename_i hlt
    split
    · exact ⟨h.1.filter _, fun c hc => h.2 c (List.mem_filter.1 hc).1⟩
    · rename_i hb
      refine ⟨Memory.insert_sorted a b h.1, fun c hc => ?_⟩
      rcases Memory.mem_insert hc with rfl | hc
      · exact ⟨hlt, hb⟩
      · exact h.2 c hc
  · exact h

/-- Reset memory, with nothing listed, is canonical. -/
theorem Memory.nil_wf (font : Vector Byte 80) : Memory.wf font [] := by simp [Memory.wf]

/-- Two states with the same memory and the same font read alike. -/
theorem State.readByte_congr {s t : State} (hm : t.mem = s.mem) (hc : t.cfg = s.cfg) (a : Nat) :
    t.readByte a = s.readByte a := by
  simp [State.readByte, hm, hc]

theorem State.readByte_writeByte (s : State) (a a' : Nat) (b : Byte) :
    (s.writeByte a b).readByte a' = if a' = a ∧ a < 4096 then b else s.readByte a' :=
  Memory.read_write _ _ _ _ _

/-- What memory reads as after a run of bytes is stored inside the address space: the byte of the
address's place in the run, or the old byte outside it. -/
theorem State.readByte_storeBytes (s : State) (a : Nat) (bs : List Byte) (a' : Nat)
    (fits : a + bs.length ≤ 4096) :
    (s.storeBytes a bs).readByte a' =
      if h : a ≤ a' ∧ a' < a + bs.length then bs[a' - a]'(by omega) else s.readByte a' := by
  induction bs generalizing s a with
  | nil =>
    have : ¬(a ≤ a' ∧ a' < a) := by omega
    simp [State.storeBytes, this]
  | cons b bs ih =>
    simp only [List.length_cons] at fits ⊢
    rw [State.storeBytes, ih _ _ (by omega), State.readByte_writeByte]
    have hlt : a < 4096 := by omega
    by_cases h1 : a' = a
    · have hin : a ≤ a' ∧ a' < a + (bs.length + 1) := by omega
      have hout : ¬(a + 1 ≤ a' ∧ a' < a + 1 + bs.length) := by omega
      rw [dif_neg hout, if_pos ⟨h1, hlt⟩, dif_pos hin]
      simp [h1]
    · rw [if_neg (fun h => h1 h.1)]
      by_cases h2 : a + 1 ≤ a' ∧ a' < a + 1 + bs.length
      · have hin : a ≤ a' ∧ a' < a + (bs.length + 1) := by omega
        have hsub : a' - a = (a' - (a + 1)) + 1 := by omega
        rw [dif_pos h2, dif_pos hin]
        simp [hsub]
      · have hout : ¬(a ≤ a' ∧ a' < a + (bs.length + 1)) := by omega
        rw [dif_neg h2, dif_neg hout]

/-- Storing bytes keeps the canonical form. -/
theorem State.storeBytes_canonical (s : State) (a : Nat) (bs : List Byte)
    (h : Memory.wf s.cfg.font s.mem) :
    Memory.wf s.cfg.font (s.storeBytes a bs).mem := by
  induction bs generalizing s a with
  | nil => exact h
  | cons b bs ih =>
    exact ih (s.writeByte a b) (a + 1) (Memory.write_wf a b h)

end Sys2Proof.Machine
end

