-- ==== Sys2Proof/Laws/Registers.lean ====
section
/-! SUPPORT. Reading a register after a write (10_state.md R20, R21), and the block of registers that
`Fx65` loads (43_index_memory.md R156). -/

namespace Sys2Proof.Machine

/-- Two states with the same registers read alike. -/
theorem State.readV_congr {s t : State} (h : t.V = s.V) (r : Nibble) : t.readV r = s.readV r := by
  simp [State.readV, h]

theorem State.readV_writeV (s : State) (x r : Nibble) (b : Byte) :
    (s.writeV x b).readV r = if r = x then b else s.readV r := by
  simp only [State.readV, State.writeV_V, Vector.getElem_set, BitVec.toNat_inj]
  by_cases h : x = r
  · simp [h]
  · simp [h, Ne.symm h]

@[simp] theorem State.readV_writeV_same (s : State) (x : Nibble) (b : Byte) :
    (s.writeV x b).readV x = b := by
  simp [State.readV_writeV]

theorem State.readV_writeV_other (s : State) {x r : Nibble} (h : r ≠ x) (b : Byte) :
    (s.writeV x b).readV r = s.readV r := by
  simp [State.readV_writeV, h]

theorem State.readV_writeVF (s : State) (f : Bool) (r : Nibble) :
    (s.writeVF f).readV r = if r = 0xF#4 then flagByte f else s.readV r :=
  s.readV_writeV _ _ _

@[simp] theorem State.readV_writeI (s : State) (v : Word) (r : Nibble) :
    (s.writeI v).readV r = s.readV r := rfl

@[simp] theorem State.readV_advance (s : State) (k : Word) (r : Nibble) :
    (s.advance k).readV r = s.readV r := rfl

@[simp] theorem State.readV_writePc (s : State) (v : Word) (r : Nibble) :
    (s.writePc v).readV r = s.readV r := rfl

@[simp] theorem State.readV_nextDraw (s : State) (r : Nibble) : s.nextDraw.readV r = s.readV r := rfl

@[simp] theorem State.readV_writeDisplay (s : State) (d : List (List Bool)) (r : Nibble) :
    (s.writeDisplay d).readV r = s.readV r := rfl

@[simp] theorem State.readV_tick (s : State) (r : Nibble) : s.tick.readV r = s.readV r := rfl

@[simp] theorem State.readV_storeBytes (s : State) (a : Nat) (bs : List Byte) (r : Nibble) :
    (s.storeBytes a bs).readV r = s.readV r := State.readV_congr (by simp) r

/-- The sixteen registers determine `V`. -/
theorem State.V_ext {s t : State} (h : ∀ r, s.readV r = t.readV r) : s.V = t.V := by
  apply Vector.ext
  intro k hk
  simpa [State.readV, Nat.mod_eq_of_lt hk] using h (BitVec.ofNat 4 k)

/-- What a loaded block of registers reads as: the byte of the register's place in the block, or the
old value outside it. -/
theorem State.readV_writeRegs (s : State) (k : Nat) (bs : List Byte) (r : Nibble)
    (fits : k + bs.length ≤ 16) :
    (s.writeRegs k bs).readV r =
      if h : k ≤ r.toNat ∧ r.toNat < k + bs.length then bs[r.toNat - k]'(by omega) else s.readV r := by
  induction bs generalizing s k with
  | nil =>
    have : ¬(k ≤ r.toNat ∧ r.toNat < k) := by omega
    simp [State.writeRegs, this]
  | cons b bs ih =>
    simp only [List.length_cons] at fits ⊢
    have hk : (BitVec.ofNat 4 k).toNat = k := by simp; omega
    have hreg : r = BitVec.ofNat 4 k ↔ r.toNat = k := by rw [← BitVec.toNat_inj, hk]
    rw [State.writeRegs, ih _ _ (by omega), State.readV_writeV]
    by_cases h1 : r.toNat = k
    · have hin : k ≤ r.toNat ∧ r.toNat < k + (bs.length + 1) := by omega
      have hout : ¬(k + 1 ≤ r.toNat ∧ r.toNat < k + 1 + bs.length) := by omega
      rw [dif_neg hout, if_pos (hreg.2 h1), dif_pos hin]
      simp [h1]
    · rw [if_neg (fun h => h1 (hreg.1 h))]
      by_cases h2 : k + 1 ≤ r.toNat ∧ r.toNat < k + 1 + bs.length
      · have hin : k ≤ r.toNat ∧ r.toNat < k + (bs.length + 1) := by omega
        have hsub : r.toNat - k = (r.toNat - (k + 1)) + 1 := by omega
        rw [dif_pos h2, dif_pos hin]
        simp [hsub]
      · have hout : ¬(k ≤ r.toNat ∧ r.toNat < k + (bs.length + 1)) := by omega
        rw [dif_neg h2, dif_neg hout]

end Sys2Proof.Machine
end

