-- ==== Sys2Proof/Laws/Ops.lean ====
section
/-! SUPPORT. What each shared operation can do, said once: the guard and the fault, the endings of an
instruction, the addressing mode's guard, the fetch, the cycle and the step. -/

namespace Sys2Proof.Machine

/-- A guarded instruction always answers a next state: the latched fault or its writes (R201). -/
theorem guarded_eq (i : Instr) (c : FaultCause) (failed : Bool) (s writes : State) :
    guarded i c failed s writes =
      .next (if failed then s.raiseFault c (some (encode i)) else writes) := by
  cases failed <;> rfl

theorem guarded_passes {i : Instr} {c : FaultCause} {failed : Bool} {s writes : State}
    (h : failed = false) : guarded i c failed s writes = .next writes := by
  simp [guarded, h]

theorem guarded_fails {i : Instr} {c : FaultCause} {failed : Bool} {s writes : State}
    (h : failed = true) :
    guarded i c failed s writes = .next (s.raiseFault c (some (encode i))) := by
  simp [guarded, raiseIn, h]

@[simp] theorem sequential_eq (s : State) : sequential s = .next (s.advance 2) := rfl

/-- A skip writes `pc` and nothing else (R93). -/
theorem skipIf_eq (holds : Bool) (s : State) :
    skipIf holds s = { s with pc := s.pc + if holds then 4 else 2 } := by
  cases holds <;> rfl

/-- The addressing mode's guard passes exactly when no address touched is above `0xFFF` (R56). -/
theorem memGuardFails_eq_false_iff (s : State) (k : Nat) :
    s.memGuardFails k = false ↔ k = 0 ∨ s.I.toNat + k ≤ 4096 := by
  cases h : s.memGuardFails k
  · simp [State.memGuardFails, State.base] at h
    simp
    omega
  · simp [State.memGuardFails, State.base] at h
    simp
    omega

theorem memGuardFails_eq_true_iff (s : State) (k : Nat) :
    s.memGuardFails k = true ↔ 0 < k ∧ s.I.toNat + k - 1 > 0xFFF := by
  simp [State.memGuardFails, State.base]

theorem keyGuardFails_eq_false_iff (s : State) (x : Nibble) :
    s.keyGuardFails x = false ↔ (s.readV x).toNat ≤ 15 := by
  simp [State.keyGuardFails]

@[simp] theorem readBytes_length (s : State) (a k : Nat) : (s.readBytes a k).length = k := by
  simp [State.readBytes]

@[simp] theorem readBytes_getElem (s : State) (a k j : Nat) (h : j < (s.readBytes a k).length) :
    (s.readBytes a k)[j] = s.readByte (a + j) := by
  simp [State.readBytes]

@[simp] theorem readRegs_length (s : State) (k : Nat) : (s.readRegs k).length = k := by
  simp [State.readRegs]

@[simp] theorem readRegs_getElem (s : State) (k j : Nat) (h : j < (s.readRegs k).length) :
    (s.readRegs k)[j] = s.readV (BitVec.ofNat 4 j) := by
  simp [State.readRegs]

/-- The fetch gives a word exactly when both its bytes exist (R92). -/
theorem fetch_eq (s : State) (h : s.pc.toNat ≤ 0xFFE) :
    s.fetch = some (wordOfBytes (s.readByte s.pc.toNat) (s.readByte (s.pc.toNat + 1))) := by
  have : ¬ s.pc.toNat > 0xFFE := by omega
  simp [State.fetch, this]

theorem fetch_none (s : State) (h : s.pc.toNat > 0xFFE) : s.fetch = none := by
  simp [State.fetch, h]

theorem fetch_some_le {s : State} {w : Word} (h : s.fetch = some w) : s.pc.toNat ≤ 0xFFE := by
  unfold State.fetch at h
  split at h
  · cases h
  · omega

/-- A word placed at `pc` is the word fetched (R71, R92). -/
theorem fetch_placeWord (s : State) (w : Word) (h : s.pc.toNat ≤ 0xFFE) :
    (s.placeWord w).fetch = some w := by
  have hpc : (s.placeWord w).pc = s.pc := by simp [State.placeWord]
  rw [fetch_eq _ (by rw [hpc]; exact h), hpc]
  simp only [State.placeWord]
  rw [State.readByte_storeBytes _ _ _ _ (by simp; omega),
    State.readByte_storeBytes _ _ _ _ (by simp; omega)]
  simp

/-- A halted machine's cycle changes nothing (R91). -/
theorem cycle_halted {s : State} (h : s.fault.isSome) : cycle s = .next s := by
  simp [cycle, h]

/-- A fetch above `0xFFE` is latched as a fault (R92, R203). -/
theorem cycle_fetch_fault {s : State} (h : s.fault = none) (hf : s.fetch = none) :
    cycle s = .next (s.raiseFault .fetchOutOfRange none) := by
  simp [cycle, h, hf]

/-- A running machine with a word fetched runs that word (R90). -/
theorem cycle_runs {s : State} {w : Word} (h : s.fault = none) (hf : s.fetch = some w) :
    cycle s = runWord w s := by
  simp [cycle, h, hf]

theorem runWord_instr {w : Word} {i : Instr} (s : State) (h : decodeWord w = .instr i) :
    runWord w s = finishCycle (exec i s) := by
  simp [runWord, h]

theorem runWord_unknown {w w' : Word} (s : State) (h : decodeWord w = .unknown w') :
    runWord w s = .next s.skipUnknown.tick := by
  simp [runWord, h]

theorem finishCycle_running {t : State} (h : t.fault = none) :
    finishCycle (.next t) = .next t.tick := by
  simp [finishCycle, h]

theorem finishCycle_faulted {t : State} (h : t.fault.isSome) :
    finishCycle (.next t) = .next t := by
  simp [finishCycle, h]

/-- Everything that ends in a next state through `finishCycle`. -/
theorem finishCycle_next {o : Host.Outcome State Fault Refusal} {u : State}
    (h : finishCycle o = .next u) :
    ∃ t, o = .next t ∧ ((t.fault.isSome ∧ u = t) ∨ (t.fault = none ∧ u = t.tick)) := by
  cases o with
  | next t =>
    refine ⟨t, rfl, ?_⟩
    by_cases ht : t.fault = none
    · rw [finishCycle_running ht] at h
      exact .inr ⟨ht, by cases h; rfl⟩
    · have hs := Option.isSome_iff_ne_none.2 ht
      rw [finishCycle_faulted hs] at h
      exact .inl ⟨hs, by cases h; rfl⟩
  | fault r => cases h
  | refused r => cases h

/-- Everything a step can do (R90): it is halted, it faults at the fetch, it reports an unknown opcode,
or it runs an instruction, which faults or completes and ticks. -/
theorem step_cases {s u : State} (h : step s = .next u) :
    (s.fault.isSome ∧ u = s) ∨
    (s.fault = none ∧ s.pc.toNat > 0xFFE ∧ u = s.raiseFault .fetchOutOfRange none) ∨
    (∃ w w', s.fault = none ∧ s.fetch = some w ∧ decodeWord w = .unknown w' ∧
      u = s.skipUnknown.tick) ∨
    (∃ w i t, s.fault = none ∧ s.fetch = some w ∧ decodeWord w = .instr i ∧ exec i s = .next t ∧
      ((t.fault.isSome ∧ u = t) ∨ (t.fault = none ∧ u = t.tick))) := by
  by_cases hf : s.fault = none
  · cases hw : s.fetch with
    | none =>
      have hpc : s.pc.toNat > 0xFFE := by
        by_contra hle
        rw [fetch_eq s (by omega)] at hw
        cases hw
      rw [step, cycle_fetch_fault hf hw] at h
      exact .inr (.inl ⟨hf, hpc, by cases h; rfl⟩)
    | some w =>
      rw [step, cycle_runs hf hw] at h
      cases hd : decodeWord w with
      | unknown w' =>
        rw [runWord_unknown s hd] at h
        exact .inr (.inr (.inl ⟨w, w', hf, rfl, hd, by cases h; rfl⟩))
      | instr i =>
        rw [runWord_instr s hd] at h
        obtain ⟨t, ht, hu⟩ := finishCycle_next h
        exact .inr (.inr (.inr ⟨w, i, t, hf, rfl, hd, ht, hu⟩))
  · have hs := Option.isSome_iff_ne_none.2 hf
    rw [step, cycle_halted hs] at h
    exact .inl ⟨hs, by cases h; rfl⟩

/-- The code of a cause is one of 1 to 5 (60_exceptions.md R202). -/
theorem FaultCause.code_range (c : FaultCause) : 1 ≤ c.code ∧ c.code ≤ 5 := by cases c <;> decide

/-- No two causes share a code. -/
theorem FaultCause.code_injective {c d : FaultCause} (h : c.code = d.code) : c = d := by
  cases c <;> cases d <;> first | rfl | exact absurd h (by decide)

/-- A result has a cause's code exactly when it is that fault. -/
theorem CycleResult.code_eq_cause (r : CycleResult) (c : FaultCause) :
    r.code = some c.code ↔ r = .fault c := by
  cases r with
  | fault d => exact ⟨fun h => (FaultCause.code_injective (Option.some.inj h)) ▸ rfl, fun h => by cases h; rfl⟩
  | unknownOpcode w a =>
    exact ⟨fun h => absurd (Option.some.inj h) (by have := c.code_range; omega), nofun⟩
  | ok | stalled | halted => exact ⟨nofun, nofun⟩

/-- A result has code 6 exactly when it reports an unknown opcode (60_exceptions.md R211). -/
theorem CycleResult.code_eq_six (r : CycleResult) :
    r.code = some 6 ↔ ∃ w a, r = .unknownOpcode w a := by
  cases r with
  | fault d =>
    exact ⟨fun h => absurd (Option.some.inj h) (by have := d.code_range; omega), nofun⟩
  | unknownOpcode w a => exact ⟨fun _ => ⟨w, a, rfl⟩, fun _ => rfl⟩
  | ok | stalled | halted => exact ⟨nofun, nofun⟩

end Sys2Proof.Machine
end

