-- ==== Sys2Proof/Laws/PerInstr.lean ====
section
/-! SUPPORT. The statements made per instruction. `RowMatch`: the word of the instruction is accepted by
the instruction's own row of the opcode map (30_encoding.md R76), whatever its operands. -/

namespace Sys2Proof.Laws.RowMatch

/-- The row of the opcode map at the instruction's index accepts the instruction's word. -/
def Statement (i : Instr) : Prop :=
  ∃ r, opcodeRows[i.rowIndex]? = some r ∧ r.accepts (encode i) = true

theorem cls : Statement .cls :=
  ⟨_, rfl, by decide⟩

theorem ret : Statement .ret :=
  ⟨_, rfl, by decide⟩

theorem jp (nnn : Addr) : Statement (.jp nnn) :=
  ⟨_, rfl, by simp [OpcodeRow.accepts, encode, and_F000]; decide⟩

theorem call (nnn : Addr) : Statement (.call nnn) :=
  ⟨_, rfl, by simp [OpcodeRow.accepts, encode, and_F000]; decide⟩

theorem seByte (x : Nibble) (kk : Byte) : Statement (.seByte x kk) :=
  ⟨_, rfl, by simp [OpcodeRow.accepts, encode, and_F000]; decide⟩

theorem sneByte (x : Nibble) (kk : Byte) : Statement (.sneByte x kk) :=
  ⟨_, rfl, by simp [OpcodeRow.accepts, encode, and_F000]; decide⟩

theorem seReg (x : Nibble) (y : Nibble) : Statement (.seReg x y) :=
  ⟨_, rfl, by simp [OpcodeRow.accepts, encode, and_F00F]; decide⟩

theorem ldByte (x : Nibble) (kk : Byte) : Statement (.ldByte x kk) :=
  ⟨_, rfl, by simp [OpcodeRow.accepts, encode, and_F000]; decide⟩

theorem addByte (x : Nibble) (kk : Byte) : Statement (.addByte x kk) :=
  ⟨_, rfl, by simp [OpcodeRow.accepts, encode, and_F000]; decide⟩

theorem ldReg (x : Nibble) (y : Nibble) : Statement (.ldReg x y) :=
  ⟨_, rfl, by simp [OpcodeRow.accepts, encode, and_F00F]; decide⟩

theorem orReg (x : Nibble) (y : Nibble) : Statement (.orReg x y) :=
  ⟨_, rfl, by simp [OpcodeRow.accepts, encode, and_F00F]; decide⟩

theorem andReg (x : Nibble) (y : Nibble) : Statement (.andReg x y) :=
  ⟨_, rfl, by simp [OpcodeRow.accepts, encode, and_F00F]; decide⟩

theorem xorReg (x : Nibble) (y : Nibble) : Statement (.xorReg x y) :=
  ⟨_, rfl, by simp [OpcodeRow.accepts, encode, and_F00F]; decide⟩

theorem addReg (x : Nibble) (y : Nibble) : Statement (.addReg x y) :=
  ⟨_, rfl, by simp [OpcodeRow.accepts, encode, and_F00F]; decide⟩

theorem subReg (x : Nibble) (y : Nibble) : Statement (.subReg x y) :=
  ⟨_, rfl, by simp [OpcodeRow.accepts, encode, and_F00F]; decide⟩

theorem shr (x : Nibble) (y : Nibble) : Statement (.shr x y) :=
  ⟨_, rfl, by simp [OpcodeRow.accepts, encode, and_F00F]; decide⟩

theorem subnReg (x : Nibble) (y : Nibble) : Statement (.subnReg x y) :=
  ⟨_, rfl, by simp [OpcodeRow.accepts, encode, and_F00F]; decide⟩

theorem shl (x : Nibble) (y : Nibble) : Statement (.shl x y) :=
  ⟨_, rfl, by simp [OpcodeRow.accepts, encode, and_F00F]; decide⟩

theorem sneReg (x : Nibble) (y : Nibble) : Statement (.sneReg x y) :=
  ⟨_, rfl, by simp [OpcodeRow.accepts, encode, and_F00F]; decide⟩

theorem ldI (nnn : Addr) : Statement (.ldI nnn) :=
  ⟨_, rfl, by simp [OpcodeRow.accepts, encode, and_F000]; decide⟩

theorem jpV0 (nnn : Addr) : Statement (.jpV0 nnn) :=
  ⟨_, rfl, by simp [OpcodeRow.accepts, encode, and_F000]; decide⟩

theorem rnd (x : Nibble) (kk : Byte) : Statement (.rnd x kk) :=
  ⟨_, rfl, by simp [OpcodeRow.accepts, encode, and_F000]; decide⟩

theorem drw (x : Nibble) (y : Nibble) (n : Nibble) : Statement (.drw x y n) :=
  ⟨_, rfl, by simp [OpcodeRow.accepts, encode, and_F000]; decide⟩

theorem skp (x : Nibble) : Statement (.skp x) :=
  ⟨_, rfl, by simp [OpcodeRow.accepts, encode, and_F0FF]; decide⟩

theorem sknp (x : Nibble) : Statement (.sknp x) :=
  ⟨_, rfl, by simp [OpcodeRow.accepts, encode, and_F0FF]; decide⟩

theorem ldVxDT (x : Nibble) : Statement (.ldVxDT x) :=
  ⟨_, rfl, by simp [OpcodeRow.accepts, encode, and_F0FF]; decide⟩

theorem ldVxK (x : Nibble) : Statement (.ldVxK x) :=
  ⟨_, rfl, by simp [OpcodeRow.accepts, encode, and_F0FF]; decide⟩

theorem ldDTVx (x : Nibble) : Statement (.ldDTVx x) :=
  ⟨_, rfl, by simp [OpcodeRow.accepts, encode, and_F0FF]; decide⟩

theorem ldSTVx (x : Nibble) : Statement (.ldSTVx x) :=
  ⟨_, rfl, by simp [OpcodeRow.accepts, encode, and_F0FF]; decide⟩

theorem addI (x : Nibble) : Statement (.addI x) :=
  ⟨_, rfl, by simp [OpcodeRow.accepts, encode, and_F0FF]; decide⟩

theorem ldF (x : Nibble) : Statement (.ldF x) :=
  ⟨_, rfl, by simp [OpcodeRow.accepts, encode, and_F0FF]; decide⟩

theorem ldB (x : Nibble) : Statement (.ldB x) :=
  ⟨_, rfl, by simp [OpcodeRow.accepts, encode, and_F0FF]; decide⟩

theorem storeRegs (x : Nibble) : Statement (.storeRegs x) :=
  ⟨_, rfl, by simp [OpcodeRow.accepts, encode, and_F0FF]; decide⟩

theorem loadRegs (x : Nibble) : Statement (.loadRegs x) :=
  ⟨_, rfl, by simp [OpcodeRow.accepts, encode, and_F0FF]; decide⟩

end Sys2Proof.Laws.RowMatch
end

