-- ==== Sys2Proof/Laws/Safety.lean ====
section
/-! SUPPORT. The terms of Safety.lean as equations for `simp`. -/

namespace Sys2Proof.Machine

@[simp] theorem State.running_iff (s : State) : s.running ↔ s.fault = none := Iff.rfl

/-- A fetched instruction's own word is the one fetched, once its encoding is known. -/
theorem State.fetches_of_word {s : State} {w : Word} {i : Instr} (hf : s.fetch = some w)
    (hd : decodeWord w = .instr i) : s.fetches i := ⟨w, hf, hd⟩

/-- At most one instruction is fetched. -/
theorem State.fetches_unique {s : State} {i j : Instr} (hi : s.fetches i) (hj : s.fetches j) :
    i = j := by
  obtain ⟨w, hw, hd⟩ := hi
  obtain ⟨w', hw', hd'⟩ := hj
  rw [hw] at hw'
  cases hw'
  rw [hd] at hd'
  cases hd'
  rfl

/-- A register write that leaves the rest alone is the one-register change of the statements. -/
theorem State.writeV_advance_writesOne (s : State) (x : Nibble) (v : Byte) :
    s.writesOne ((s.writeV x v).advance 2) x v :=
  ⟨by simp, fun _ hr => by simp [State.readV_writeV_other s hr], rfl, rfl⟩

/-- A flag write followed by a result write is the flagged change of the statements. -/
theorem State.writeVF_writeV_writesFlagged (s : State) (f : Bool) (x : Nibble) (v : Byte) :
    s.writesFlagged (((s.writeVF f).writeV x v).advance 2) x v (flagByte f) := by
  refine ⟨by simp, fun hx => ?_, fun r hr hF => ?_, rfl, rfl⟩
  · simp [State.readV_writeV_other _ (Ne.symm hx), State.readV_writeVF]
  · simp [State.readV_writeV_other _ hr, State.readV_writeVF, hF]

/-- A skip is the conditional advance of the statements. -/
theorem State.skipIf_skips (s : State) (p : Prop) [Decidable p] : s.skips (skipIf (decide p) s) p := by
  refine ⟨fun h => ?_, fun h => ?_, ?_⟩
  · simp [skipIf, h]
  · simp [skipIf, h]
  · simp only [skipIf]; split <;> rfl

/-- A raised fault is the latch of the statements. -/
theorem State.raiseFault_latches (s : State) (c : FaultCause) (w : Option Word) :
    s.latches (s.raiseFault c w) c w := ⟨rfl, rfl⟩

end Sys2Proof.Machine
end

