-- ==== Sys2Proof/Tests/Slice0.lean ====
section
/-! SUPPORT. Tests: the operand checks, the decoding of words written out from the opcode map
(30_encoding.md R76), single steps whose expected values are those of 95_test_vectors.md (the vector's
name stands before each), and states that meet the hypotheses of the statements. -/

namespace Sys2Proof.Tests

open Sys2Proof Sys2Proof.Machine

/-! The operand checks refuse what is out of range (30_encoding.md R74). -/

theorem test_regNumber : WellFormed.regNumber 15 = true ∧ WellFormed.regNumber 16 = false := by decide
theorem test_rowCount : WellFormed.rowCount 15 = true ∧ WellFormed.rowCount 16 = false := by decide
theorem test_byteValue : WellFormed.byteValue 255 = true ∧ WellFormed.byteValue 256 = false := by decide
theorem test_addrValue : WellFormed.addrValue 4095 = true ∧ WellFormed.addrValue 4096 = false := by decide

/-! Every constructor's decoding, from a word written out by the patterns of 30_encoding.md R76. -/

theorem test_decode_cls : decodeWord 0b0000000011100000#16 = .instr .cls := by decide
theorem test_decode_ret : decodeWord 0b0000000011101110#16 = .instr .ret := by decide
theorem test_decode_jp : decodeWord 0b0001101010111100#16 = .instr (.jp 0xABC) := by decide
theorem test_decode_call : decodeWord 0b0010001101000101#16 = .instr (.call 0x345) := by decide
theorem test_decode_seByte : decodeWord 0b0011000101000010#16 = .instr (.seByte 1 0x42) := by decide
theorem test_decode_sneByte : decodeWord 0b0100001000000111#16 = .instr (.sneByte 2 0x07) := by decide
theorem test_decode_seReg : decodeWord 0b0101001101000000#16 = .instr (.seReg 3 4) := by decide
theorem test_decode_ldByte : decodeWord 0b0110101000000010#16 = .instr (.ldByte 10 0x02) := by decide
theorem test_decode_addByte : decodeWord 0b0111000100000101#16 = .instr (.addByte 1 0x05) := by decide
theorem test_decode_ldReg : decodeWord 0b1000000100100000#16 = .instr (.ldReg 1 2) := by decide
theorem test_decode_orReg : decodeWord 0b1000000100100001#16 = .instr (.orReg 1 2) := by decide
theorem test_decode_andReg : decodeWord 0b1000000100100010#16 = .instr (.andReg 1 2) := by decide
theorem test_decode_xorReg : decodeWord 0b1000000100100011#16 = .instr (.xorReg 1 2) := by decide
theorem test_decode_addReg : decodeWord 0b1000000100100100#16 = .instr (.addReg 1 2) := by decide
theorem test_decode_subReg : decodeWord 0b1000000100100101#16 = .instr (.subReg 1 2) := by decide
theorem test_decode_shr : decodeWord 0b1000001100000110#16 = .instr (.shr 3 0) := by decide
theorem test_decode_subnReg : decodeWord 0b1000000100100111#16 = .instr (.subnReg 1 2) := by decide
theorem test_decode_shl : decodeWord 0b1000001100001110#16 = .instr (.shl 3 0) := by decide
theorem test_decode_sneReg : decodeWord 0b1001000000010000#16 = .instr (.sneReg 0 1) := by decide
theorem test_decode_ldI : decodeWord 0b1010001100000000#16 = .instr (.ldI 0x300) := by decide
theorem test_decode_jpV0 : decodeWord 0b1011001100000000#16 = .instr (.jpV0 0x300) := by decide
theorem test_decode_rnd : decodeWord 0b1100001100001111#16 = .instr (.rnd 3 0x0F) := by decide
theorem test_decode_drw : decodeWord 0b1101000100100101#16 = .instr (.drw 1 2 5) := by decide
theorem test_decode_skp : decodeWord 0b1110001010011110#16 = .instr (.skp 2) := by decide
theorem test_decode_sknp : decodeWord 0b1110001010100001#16 = .instr (.sknp 2) := by decide
theorem test_decode_ldVxDT : decodeWord 0b1111000100000111#16 = .instr (.ldVxDT 1) := by decide
theorem test_decode_ldVxK : decodeWord 0b1111001000001010#16 = .instr (.ldVxK 2) := by decide
theorem test_decode_ldDTVx : decodeWord 0b1111000000010101#16 = .instr (.ldDTVx 0) := by decide
theorem test_decode_ldSTVx : decodeWord 0b1111010000011000#16 = .instr (.ldSTVx 4) := by decide
theorem test_decode_addI : decodeWord 0b1111001000011110#16 = .instr (.addI 2) := by decide
theorem test_decode_ldF : decodeWord 0b1111000000101001#16 = .instr (.ldF 0) := by decide
theorem test_decode_ldB : decodeWord 0b1111000000110011#16 = .instr (.ldB 0) := by decide
theorem test_decode_storeRegs : decodeWord 0b1111001001010101#16 = .instr (.storeRegs 2) := by decide
theorem test_decode_loadRegs : decodeWord 0b1111001001100101#16 = .instr (.loadRegs 2) := by decide

/-- Y2 to Y8 and Y1: the unknown words, by name. -/
theorem test_decode_unknown :
    [0x0000, 0x5011, 0x9AB1, 0x8128, 0x00E1, 0x01E0, 0xE19F, 0xF1FF].all
      (fun k => decodeWord (BitVec.ofNat 16 k) = .unknown (BitVec.ofNat 16 k)) = true := by decide

theorem test_decodeBytes_truncated : decodeBytes [0x12] = .error .truncated := by rfl

theorem test_decodeTableWord : decodeTableWord 16 0x6A02 = some (.ldByte 10 2) := by decide

theorem test_decodeTableWord_unknown : decodeTableWord 16 0x0000 = none := by decide

/-! Single steps. -/

/-- The state of a vector of 95_test_vectors.md: after reset, with the word at `0x200` and the listed
registers. -/
def vec (w : Nat) (regs : List (Nibble × Byte)) : State :=
  regs.foldl (fun s p => s.writeV p.1 p.2) (State.reset.withFetchWord 16 w)

/-- The state after one step. -/
def after (s : State) : State :=
  match step s with
  | .next t => t
  | .fault _ | .refused _ => s

/-- The latch after a step. -/
def latch (s : State) : Option FaultRecord := (after s).fault

-- Y1
theorem test_unknown_ticks :
    let t := after { vec 0x0000 [] with DT := 5, ST := 1 }
    t.pc = 0x202 ∧ t.DT = 4 ∧ t.ST = 0 := by decide
-- Y9
-- 60_exceptions.md R211: report code 6
theorem test_unknown_code : (CycleResult.unknownOpcode 0x0000 0x200).code = some 6 := rfl
theorem test_unknown_holds :
    let s := vec 0x0000 []
    (after { s with cfg := { s.cfg with unknownAdvance := false } }).pc = 0x200 := by decide
-- Y11
theorem test_fetch_fault : latch { vec 0 [] with pc := 0xFFF } = some ⟨.fetchOutOfRange, 0xFFF, none⟩ := by
  decide
-- Y12
theorem test_fetch_last :
    let t := after ((vec 0 []).writePc 0xFFE |>.placeWord 0x6011)
    t.readV 0 = 0x11 ∧ t.pc = 0x1000 := by decide
-- Y13
theorem test_fetch_odd :
    let t := after ((vec 0 []).writePc 0x201 |>.placeWord 0x6A42)
    t.readV 10 = 0x42 ∧ t.pc = 0x203 := by decide
-- Y14
theorem test_fault_no_tick :
    let t := after { vec 0x00EE [] with DT := 5, ST := 5 }
    t.fault = some ⟨.stackUnderflow, 0x200, some 0x00EE⟩ ∧ t.DT = 5 ∧ t.pc = 0x200 := by decide
-- Y14, the next cycle
theorem test_halted :
    cycleResult (after (vec 0x00EE [])) = .halted ∧ (after (after (vec 0x00EE []))).pc = 0x200 := by
  decide
-- F1
theorem test_jp : (after (vec 0x1ABC [])).pc = 0xABC := by decide
-- F4
theorem test_call :
    let t := after (vec 0x2345 [])
    t.stack[0] = 0x200 ∧ t.sp = 1 ∧ t.pc = 0x345 := by decide
-- F5
theorem test_call_full :
    let t := after { vec 0x2345 [] with sp := 16 }
    t.fault = some ⟨.stackOverflow, 0x200, some 0x2345⟩ ∧ t.sp = 16 ∧ t.pc = 0x200 := by decide
-- F7
theorem test_ret :
    let s := vec 0x00EE []
    let t := after { s with sp := 1, stack := s.stack.set 0 0xABC }
    t.sp = 0 ∧ t.pc = 0xABE ∧ t.stack[0] = 0xABC := by decide
-- F10, F11
theorem test_seByte : (after (vec 0x3142 [(1, 0x42)])).pc = 0x204 ∧
    (after (vec 0x3142 [(1, 0x41)])).pc = 0x202 := by decide
-- F12, F13
theorem test_sneByte : (after (vec 0x4142 [(1, 0x42)])).pc = 0x202 ∧
    (after (vec 0x4142 [(1, 0x41)])).pc = 0x204 := by decide
-- F14, F15
theorem test_seReg : (after (vec 0x5120 [(1, 7), (2, 7)])).pc = 0x204 ∧
    (after (vec 0x5120 [(1, 7), (2, 8)])).pc = 0x202 := by decide
-- F17, F18
theorem test_sneReg : (after (vec 0x9120 [(1, 7), (2, 7)])).pc = 0x202 ∧
    (after (vec 0x9120 [(1, 7), (2, 8)])).pc = 0x204 := by decide
-- F21
theorem test_jpV0 : (after (vec 0xBFFF [(0, 0xFF)])).pc = 0x10FE := by decide
-- A1
theorem test_ldByte : (after (vec 0x6AFF [])).readV 10 = 0xFF := by decide
-- A2
theorem test_addByte :
    let t := after (vec 0x7A01 [(10, 0xFF)])
    t.readV 10 = 0 ∧ t.readV 15 = 0 := by decide
-- A5
theorem test_ldReg : (after (vec 0x8120 [(2, 0x55)])).readV 1 = 0x55 := by decide
-- A7
theorem test_orReg : (after (vec 0x8F11 [(15, 1), (1, 0x80)])).readV 15 = 0x81 := by decide
-- A8
theorem test_andReg : (after (vec 0x8012 [(0, 0xF0), (1, 0x3C)])).readV 0 = 0x30 := by decide
-- A9
theorem test_xorReg : (after (vec 0x8013 [(0, 0xFF), (1, 0x0F)])).readV 0 = 0xF0 := by decide
-- A11
theorem test_addReg_carry :
    let t := after (vec 0x8014 [(0, 0xFF), (1, 1)])
    t.readV 0 = 0 ∧ t.readV 15 = 1 := by decide
-- Q1
theorem test_addReg_x15 : (after (vec 0x8F14 [(15, 0xF0), (1, 0x20)])).readV 15 = 0x10 := by decide
-- A15
theorem test_subReg_borrow :
    let t := after (vec 0x8015 [(0, 1), (1, 2)])
    t.readV 0 = 0xFF ∧ t.readV 15 = 0 := by decide
-- Q6
theorem test_subReg_y15 :
    let t := after (vec 0x81F5 [(1, 0x10), (15, 4)])
    t.readV 1 = 0x0F ∧ t.readV 15 = 1 := by decide
-- A19
theorem test_shr :
    let t := after (vec 0x8016 [(0, 5), (1, 0xFF)])
    t.readV 0 = 2 ∧ t.readV 15 = 1 ∧ t.readV 1 = 0xFF := by decide
-- Q9
theorem test_shr_x15 : (after (vec 0x8F06 [(15, 0xFF)])).readV 15 = 0 := by decide
-- A23
theorem test_subnReg :
    let t := after (vec 0x8017 [(0, 2), (1, 1)])
    t.readV 0 = 0xFF ∧ t.readV 15 = 0 := by decide
-- Q15
theorem test_subnReg_y15 :
    let t := after (vec 0x81F7 [(1, 3), (15, 9)])
    t.readV 1 = 0xFE ∧ t.readV 15 = 1 := by decide
-- A26
theorem test_shl :
    let t := after (vec 0x801E [(0, 0x81), (1, 0xFF)])
    t.readV 0 = 2 ∧ t.readV 15 = 1 := by decide
-- Q10
theorem test_shl_x15 : (after (vec 0x8F0E [(15, 0xFF)])).readV 15 = 2 := by decide
-- A29 to A33, with the free byte
theorem test_rnd : (after (vec 0xC1FF [])).readV 1 = Config.drawByte 0 &&& 0xFF := by rfl
-- M1
theorem test_ldI : (after (vec 0xAFFF [])).I = 0xFFF := by decide
-- M5
theorem test_addI :
    let t := after { vec 0xF11E [(1, 1)] with I := 0xFFF }
    t.I = 0x1000 ∧ t.readV 15 = 1 := by decide
-- M8
theorem test_addI_x15 :
    let t := after { vec 0xFF1E [(15, 5)] with I := 0xFFE }
    t.I = 0xFFF ∧ t.readV 15 = 1 := by decide
-- M13
theorem test_ldF : (after (vec 0xF129 [(1, 0xFF)])).I = 0x4FB := by decide
-- M19
theorem test_ldB :
    let t := after { vec 0xF133 [(1, 0x7B)] with I := 0xFFD }
    t.readByte 0xFFD = 1 ∧ t.readByte 0xFFE = 2 ∧ t.readByte 0xFFF = 3 := by decide
-- M20
theorem test_ldB_fault :
    let t := after { vec 0xF133 [(1, 0x7B)] with I := 0xFFE }
    t.fault = some ⟨.memOutOfRange, 0x200, some 0xF133⟩ ∧ t.readByte 0xFFE = 0 := by decide
-- M22
theorem test_storeRegs :
    let t := after { vec 0xF255 [(0, 1), (1, 2), (2, 3), (3, 4)] with I := 0x400 }
    t.readByte 0x400 = 1 ∧ t.readByte 0x402 = 3 ∧ t.readByte 0x403 = 0 ∧ t.I = 0x403 := by decide
-- M26
theorem test_storeRegs_fault :
    let t := after { vec 0xF255 [(0, 1), (1, 2), (2, 3)] with I := 0xFFE }
    t.fault = some ⟨.memOutOfRange, 0x200, some 0xF255⟩ ∧ t.readByte 0xFFE = 0 ∧ t.I = 0xFFE := by decide
-- M27
theorem test_loadRegs :
    let t := after ({ vec 0xF265 [(3, 0x99)] with I := 0x400 }.storeBytes 0x400 [0x11, 0x22, 0x33, 0x44])
    t.readV 0 = 0x11 ∧ t.readV 2 = 0x33 ∧ t.readV 3 = 0x99 ∧ t.I = 0x403 := by decide
-- M28, glyph bytes of the default font
theorem test_loadRegs_font :
    let t := after (vec 0xFF65 [])
    t.readV 0 = 0xF0 ∧ t.readV 5 = 0x20 ∧ t.readV 15 = 0xF0 ∧ t.I = 0x10 := by decide
-- S1
theorem test_cls :
    let t := after ((vec 0x00E0 [(15, 9)]).writeDisplay [[true]])
    t.pixel 0 0 = false ∧ t.fc = true ∧ t.readV 15 = 9 := by decide
-- S4
theorem test_drw_clips :
    let t := after ({ vec 0xD011 [(0, 0x3C), (1, 5)] with I := 0x206 }.writeByte 0x206 0xFF)
    t.pixel 5 60 = true ∧ t.pixel 5 63 = true ∧ t.pixel 5 0 = false ∧ t.pixel 6 0 = false ∧
      t.readV 15 = 0 := by decide
-- S7, the second draw
theorem test_drw_collides :
    let s := { vec 0xD101 [(1, 4)] with I := 0x20B, disp := [List.replicate 8 true ++ List.replicate 56 false] }
    let t := after (s.writeByte 0x20B 0x3C)
    t.pixel 0 5 = true ∧ t.pixel 0 6 = false ∧ t.pixel 0 9 = true ∧ t.readV 15 = 1 := by decide
-- S8
theorem test_drw_x15 :
    let t := after ({ vec 0xDF01 [(15, 5)] with I := 0x206 }.writeByte 0x206 0x80)
    t.pixel 0 5 = true ∧ t.readV 15 = 0 := by decide
-- S11
theorem test_drw_no_rows :
    let t := after { vec 0xD010 [(15, 1)] with I := 0x1000 }
    t.readV 15 = 0 ∧ t.fc = true ∧ t.pc = 0x202 := by decide
-- S13
theorem test_drw_fault :
    let t := after { vec 0xD01F [] with I := 0xFF2 }
    t.fault = some ⟨.memOutOfRange, 0x200, some 0xD01F⟩ ∧ t.fc = false := by decide
-- K1
theorem test_skp : (after (hostSetKey 7 true (vec 0xE19E [(1, 7)]))).pc = 0x204 := by decide
-- K4
theorem test_skp_fault : latch (vec 0xE19E [(1, 0x10)]) = some ⟨.keyOutOfRange, 0x200, some 0xE19E⟩ := by
  decide
-- K5, K6
theorem test_sknp : (after (hostSetKey 7 true (vec 0xE1A1 [(1, 7)]))).pc = 0x202 ∧
    (after (vec 0xE1A1 [(1, 7)])).pc = 0x204 := by decide
-- K8
theorem test_ldVxDT :
    let t := after { vec 0xF107 [(1, 9)] with DT := 0x20 }
    t.readV 1 = 0x20 ∧ t.DT = 0x1F := by decide
-- K11
theorem test_ldVxK_stalls :
    let s := { vec 0xF10A [(1, 9)] with DT := 2, ST := 1 }
    cycleResult s = .stalled ∧ (after s).pc = 0x200 ∧ (after s).readV 1 = 9 ∧ (after s).DT = 1 := by decide
-- K12
theorem test_ldVxK_lowest :
    let t := after (hostSetKey 3 true (hostSetKey 9 true (vec 0xF10A [(1, 0xFF)])))
    t.readV 1 = 3 ∧ t.pc = 0x202 := by decide
-- K15
theorem test_ldDTVx : (after (vec 0xF115 [(1, 3)])).DT = 2 := by decide
-- K19
theorem test_ldSTVx : (after (vec 0xF118 [(1, 3)])).ST = 2 := by decide
-- L2
theorem test_load :
    let t := hostLoad [0x6A, 0x42] (vec 0 [])
    t.readByte 0x200 = 0x6A ∧ t.readByte 0x201 = 0x42 ∧ t.fetch = some 0x6A42 := by decide
-- L6
-- 60_exceptions.md R212: the failed load's code
theorem test_loadError_code :
    (hostReply (.load (List.replicate 3585 0)) (vec 0 [])).code = some 7 := by
  have h : ¬ (List.replicate 3585 (0 : Byte)).length ≤ maxRom := by
    rw [List.length_replicate]; decide
  simp only [hostReply, if_neg h, HostReply.code]
theorem test_load_odd : (hostLoad [0x12] (vec 0 [])).fetch = some 0x1200 := by decide

/-! States and operands that meet the hypotheses of the statements. -/

/-- A small block: 8 columns, 1 row, an empty font, an unknown opcode that holds `pc`. -/
def tinyConfig : Config :=
  { dispW := 8, dispH := 1, font := Vector.replicate 80 0, unknownAdvance := false,
    dispW_ge := by decide, dispH_ge := by decide }

/-- The small block after reset. -/
def tiny : State := State.resetWith tinyConfig 0

/-- The small block with a word where it fetches. -/
def tinyAt (w : Nat) : State := tiny.withFetchWord 16 w

theorem tinyAt_fetches {w : Nat} {i : Instr} (hf : (tinyAt w).fetch = some (BitVec.ofNat 16 w))
    (hd : decodeWord (BitVec.ofNat 16 w) = .instr i) : (tinyAt w).fetches i := ⟨_, hf, hd⟩

-- EncodeInvertsDecode, FieldsAreCutFromWord
theorem witness_decodes : ∃ w i, decodeWord w = .instr i := ⟨0x00E0, .cls, by decide⟩
-- DecodeFollowsOpcodeMap: the first row and the last, accepted, and one refused
theorem witness_rows : opcodeRows[0]? = some ⟨0x00E0, 0xFFFF⟩ ∧ opcodeRows[33]? = some ⟨0xF065, 0xF0FF⟩ ∧
    (0xFF65#16 &&& 0xF0FF#16 = 0xF065#16) ∧ (0xFF66#16 &&& 0xF0FF#16 ≠ 0xF065#16) := by decide
-- FetchIsBigEndian: the last address an instruction is fetched from
theorem witness_fetch_bound : ((vec 0 []).writePc 0xFFE).pc.toNat ≤ 0xFFE := by decide
-- StepRunsDecodedInstruction
theorem witness_step_runs :
    let s := tinyAt 0x6A02
    s.running ∧ s.pc.toNat ≤ 0xFFE ∧
      decodeBytes [s.readByte s.pc.toNat, s.readByte (s.pc.toNat + 1)] = .ok (.ldByte 10 2, []) :=
  ⟨rfl, by decide, rfl⟩
-- HaltedMachineStaysHalted: a halted machine, and an operation that clears the latch
theorem witness_halted :
    let s := tiny.raiseFault .stackUnderflow (some 0x00EE)
    s.fault ≠ none ∧ ∃ t, hostStep .reset s = .next t ∧ t.fault ≠ s.fault :=
  ⟨by decide, _, rfl, by decide⟩
-- FetchAboveTopFaults: the first address above the bound
theorem witness_fetch_above : (tiny.writePc 0xFFF).running ∧ (tiny.writePc 0xFFF).pc.toNat > 0xFFE :=
  ⟨rfl, by decide⟩
-- UnknownOpcodeIsReported
theorem witness_unknown : tiny.running ∧ tiny.fetch = some 0 ∧ decodeWord 0 = .unknown 0 :=
  ⟨rfl, by decide, by decide⟩
-- TimersTickOncePerCycle: an Fx15, an Fx18 and an instruction that is neither
theorem witness_ticks :
    (∃ t, (tinyAt 0xF015).running ∧ step (tinyAt 0xF015) = .next t ∧ t.running) ∧
    (tinyAt 0xF015).fetches (.ldDTVx 0) ∧ (tinyAt 0xF018).fetches (.ldSTVx 0) ∧
    (∀ x, ¬(tinyAt 0x00E0).fetches (.ldDTVx x)) := by
  refine ⟨⟨_, rfl, rfl, rfl⟩, tinyAt_fetches (by decide) (by decide),
    tinyAt_fetches (by decide) (by decide), ?_⟩
  rintro x ⟨w, hw, hd⟩
  have hc : (tinyAt 0x00E0).fetch = some 0x00E0 := by decide
  rw [hc] at hw
  cases hw
  have hcls : decodeWord 0x00E0#16 = .instr .cls := by decide
  exact absurd (hcls.symm.trans hd) (by simp)
-- FaultsArePrecise: an execute fault and a fetch fault
theorem witness_faults :
    (∃ t, (tinyAt 0x00EE).running ∧ step (tinyAt 0x00EE) = .next t ∧ ¬t.running) ∧
    (∃ t, (tiny.writePc 0xFFF).running ∧ step (tiny.writePc 0xFFF) = .next t ∧ ¬t.running) :=
  ⟨⟨_, rfl, rfl, by decide⟩, ⟨_, rfl, rfl, by decide⟩⟩
-- InstructionsFaultExactlyByGuard: each guard at its boundary
theorem witness_guards :
    tiny.running ∧ faultOf .ret tiny = some .stackUnderflow ∧
    faultOf (.call 0) { tiny with sp := 16 } = some .stackOverflow ∧
    faultOf (.call 0) { tiny with sp := 15 } = none ∧
    faultOf (.ldB 0) { tiny with I := 0xFFD } = none ∧
    faultOf (.ldB 0) { tiny with I := 0xFFE } = some .memOutOfRange ∧
    faultOf (.drw 0 0 0) { tiny with I := 0xFFFF } = none ∧
    faultOf (.drw 0 0 1) { tiny with I := 0x1000 } = some .memOutOfRange ∧
    faultOf (.skp 0) (tiny.writeV 0 16) = some .keyOutOfRange := by
  refine ⟨rfl, ?_⟩; decide
-- OnlyRandomDependsOnDraw
theorem witness_rnd : (tinyAt 0xC1FF).running ∧ (tinyAt 0xC1FF).fetches (.rnd 1 0xFF) :=
  ⟨rfl, tinyAt_fetches (by decide) (by decide)⟩
-- PcFollowsItsClass, StepKeepsInvariant, HostRunsKeepInvariant
theorem witness_inv : tiny.inv ∧ tiny.pc.toNat ≤ 0xFFE ∧ tiny.running ∧ faultOf (.jp 0) tiny = none ∧
    ∃ t, step tiny = .next t :=
  ⟨by decide, by decide, rfl, by decide, _, rfl⟩
-- CallPushesReturnAddress, ReturnComesBackAfterCall: the last free slot, and none
theorem witness_call : { tiny with sp := 15 }.sp.val < 16 ∧ { tiny with sp := 16 }.sp.val = 16 := by decide
-- ReturnComesBackAfterCall: a state of the subroutine, the state after the call itself
theorem witness_call_return : ∃ t u : State, exec (.call 0x300) tiny = .next t ∧ u.stack = t.stack ∧ u.sp = t.sp :=
  ⟨_, _, rfl, rfl, rfl⟩
-- ReturnPopsReturnAddress: one address held, and none
theorem witness_ret : 0 < { tiny with sp := 1 }.sp.val ∧ tiny.sp.val = 0 := by decide
-- AluFlagWritersAreFive
theorem witness_not_vf : (14 : Nibble) ≠ 0xF#4 := by decide
-- RegisterSkips
theorem witness_seReg_same : ∃ t, exec (.seReg 3 3) tiny = .next t := ⟨_, rfl⟩
-- BcdStoresDigits: the last index that fits, and the first that does not, with an address outside
theorem witness_bcd :
    { tiny with I := 0xFFD }.I.toNat + 2 ≤ 0xFFF ∧ 0xFFF < { tiny with I := 0xFFE }.I.toNat + 2 ∧
      0xFFC < { tiny with I := 0xFFD }.I.toNat := by decide
-- BlockStoreWritesRegisters, BlockLoadReadsRegisters, BlockStoreThenLoadRoundTrips
theorem witness_block :
    { tiny with I := 0xFF0 }.I.toNat + (15 : Nibble).toNat ≤ 0xFFF ∧
      0xFFF < { tiny with I := 0xFF1 }.I.toNat + (15 : Nibble).toNat ∧
      (15 : Nibble).toNat ≤ (15 : Nibble).toNat ∧ (0 : Nibble).toNat < (1 : Nibble).toNat := by decide
-- DrawXorsSpriteAndReportsCollision: no rows, the last rows that fit, the first that do not; a pixel on
theorem witness_draw :
    tiny.displaySized ∧ { tiny with I := 0xFFF }.I.toNat + (1 : Nibble).toNat - 1 ≤ 0xFFF ∧
      ((1 : Nibble) ≠ 0#4 ∧ 0xFFF < { tiny with I := 0x1000 }.I.toNat + (1 : Nibble).toNat - 1) ∧
      tiny.cfg.dispH = 1 ∧ tiny.cfg.dispW = 8 := by decide
-- DrawXorsSpriteAndReportsCollision: a place under a set sprite bit, with its pixel on
theorem witness_sprite :
    let s := { tiny with disp := [List.replicate 8 true] }.writeByte 0 0x80
    s.displaySized ∧ s.onDisplay 0 0 ∧ s.spriteOn 0 0 1 0 0 ∧ s.pixel 0 0 = true :=
  ⟨by decide, by unfold State.onDisplay; decide, by unfold State.spriteOn; decide, by decide⟩
-- DrawingTwiceRestoresDisplay
theorem witness_draw_twice :
    tiny.displaySized ∧ (0 : Nibble) ≠ 0xF#4 ∧ faultOf (.drw 0 0 1) tiny = none ∧
      ∀ r < 1, ∀ c < 8, tiny.pixel r c = false := by decide
-- FrameFlagIsSetNeverReadOrCleared
theorem witness_fc : { tiny with fc := true }.fc = true ∧ faultOf (.drw 0 0 1) tiny = none := by decide
-- KeySkips: the last key number and the first register value that is none
theorem witness_keys :
    ((tiny.writeV 1 15).readV 1).toNat = (15 : Nibble).toNat ∧ 15 < ((tiny.writeV 1 16).readV 1).toNat := by
  decide
-- AwaitKeyTakesLowestOrStalls: a lowest key, and none
theorem witness_await :
    ((hostSetKey 3 true tiny).keyDown 3 = true ∧
      ∀ j : Nibble, j.toNat < (3 : Nibble).toNat → (hostSetKey 3 true tiny).keyDown j = false) ∧
    ∀ k : Nibble, tiny.keyDown k = false := by decide
-- StateIsWrittenOnlyByItsWriters
theorem witness_exec : ∃ t, exec (.ldByte 1 2) tiny = .next t ∧ (Instr.ldByte 1 2).writesReg 2 = false :=
  ⟨_, rfl, by decide⟩
-- CanonicalMemoryIsDetermined
theorem witness_wf : Memory.wf tinyConfig.font [(0x200, 1), (0x201, 2)] := by decide
-- EndedRunReachesFixedPoint
theorem witness_ended : (tinyAt 0x1200).ended :=
  ⟨rfl, 0x200, by decide, tinyAt_fetches (by decide) (by decide)⟩
-- MemoryMapAfterResetAndLoad, LoadPlacesRom: the longest ROM, the empty one, and addresses in the map
theorem witness_rom : (List.replicate 3584 (0 : Byte)).length ≤ 3584 ∧ ([] : List Byte).length ≤ 3584 ∧
    0x200 ≤ 0xFFF :=
  ⟨le_of_eq List.length_replicate, by decide, by decide⟩
-- LoadErrorLeavesResetState: the shortest ROM that is too long
theorem witness_rom_too_long : 3584 < (List.replicate 3585 (0 : Byte)).length :=
  lt_of_lt_of_eq (by decide) List.length_replicate.symm
-- ResetGivesResetValues: the last font byte, and the first and last zero byte
theorem witness_reset_map : 79 < 80 ∧ 80 ≤ 80 ∧ 80 ≤ 0xFFF ∧ 0xFFF ≤ 0xFFF := by decide
-- ExceptionalOutcomesHaveTheirCodes: one outcome of each kind has its code
theorem witness_codes :
    (hostReply .cycle (tinyAt 0x00E1)).code = some 6 ∧
      (hostReply .cycle (tinyAt 0x00EE)).code = some FaultCause.stackUnderflow.code ∧
      (hostReply .cycle (tinyAt 0x00E0)).code = none := by decide
-- HostOperationsTouchOnlyTheirOwn: another key
theorem witness_other_key : (4 : Nibble) ≠ 3 := by decide

end Sys2Proof.Tests
end

section
/-! PROOF. The numbers of a word's fields and where the fields overlap (30_encoding.md R72). -/

namespace Sys2Proof

section
variable (w : Word)

theorem toNat_opField : (opField w).toNat = w.toNat / 4096 := by
  simp only [opField, BitVec.extractLsb'_toNat, Nat.shiftRight_eq_div_pow]
  omega

theorem toNat_xField : (xField w).toNat = w.toNat / 256 % 16 := by
  simp only [xField, BitVec.extractLsb'_toNat, Nat.shiftRight_eq_div_pow, Nat.reducePow]

theorem toNat_yField : (yField w).toNat = w.toNat / 16 % 16 := by
  simp only [yField, BitVec.extractLsb'_toNat, Nat.shiftRight_eq_div_pow, Nat.reducePow]

theorem toNat_nField : (nField w).toNat = w.toNat % 16 := by
  simp only [nField, BitVec.extractLsb'_toNat, Nat.shiftRight_zero, Nat.reducePow]

theorem toNat_kkField : (kkField w).toNat = w.toNat % 256 := by
  simp only [kkField, BitVec.extractLsb'_toNat, Nat.shiftRight_zero, Nat.reducePow]

theorem toNat_nnnField : (nnnField w).toNat = w.toNat % 4096 := by
  simp only [nnnField, BitVec.extractLsb'_toNat, Nat.shiftRight_zero, Nat.reducePow]

theorem kkField_eq_append : kkField w = yField w ++ nField w :=
  (BitVec.extractLsb'_append_extractLsb'_eq_extractLsb' (start₁ := 0) (len₁ := 4) (len₂ := 4) rfl).symm

theorem nnnField_eq_append : nnnField w = xField w ++ kkField w :=
  (BitVec.extractLsb'_append_extractLsb'_eq_extractLsb' (start₁ := 0) (len₁ := 8) (len₂ := 4) rfl).symm

end

end Sys2Proof
end

section
/-! PROOF. The decoder takes every operand from the field its format names (30_encoding.md R72, R73): each
group on its own, then the dispatch on `op`. -/

namespace Sys2Proof

/-- If the outcome is an instruction, each of its operands is the field of `w` that its format names. -/
def Decoded.TakesFields (w : Word) (d : Decoded) : Prop :=
  ∀ i, d = .instr i → i.withFieldsOf w = i

@[simp] theorem takesFields_instr_iff {w : Word} {i : Instr} :
    (Decoded.instr i).TakesFields w ↔ i.withFieldsOf w = i := by
  simp [Decoded.TakesFields]

@[simp] theorem takesFields_unknown (w w' : Word) : (Decoded.unknown w').TakesFields w := by
  simp [Decoded.TakesFields]

/-- Every group is a chain of tests on one field: it takes the fields when each of its answers does. -/
theorem takesFields_ite {w : Word} {c : Prop} [Decidable c] {d e : Decoded} (hd : d.TakesFields w)
    (he : e.TakesFields w) : (if c then d else e).TakesFields w := by
  split
  · exact hd
  · exact he

@[simp] theorem takesFields_decodeGroup0 (w : Word) : (decodeGroup0 w).TakesFields w := by
  unfold decodeGroup0
  repeat' apply takesFields_ite
  all_goals simp [Instr.withFieldsOf]

@[simp] theorem takesFields_decodeGroup8 (w : Word) : (decodeGroup8 w).TakesFields w := by
  unfold decodeGroup8
  repeat' apply takesFields_ite
  all_goals simp [Instr.withFieldsOf]

@[simp] theorem takesFields_decodeGroupE (w : Word) : (decodeGroupE w).TakesFields w := by
  unfold decodeGroupE
  repeat' apply takesFields_ite
  all_goals simp [Instr.withFieldsOf]

@[simp] theorem takesFields_decodeGroupF (w : Word) : (decodeGroupF w).TakesFields w := by
  unfold decodeGroupF
  repeat' apply takesFields_ite
  all_goals simp [Instr.withFieldsOf]

theorem takesFields_decodeWord (w : Word) : (decodeWord w).TakesFields w := by
  unfold decodeWord
  repeat' apply takesFields_ite
  all_goals simp [Instr.withFieldsOf]

/-- Settles O3, from the number of each field, the two overlaps, and the decoder's operands. -/
theorem fieldsAreCutFromWord : Obligations.FieldsAreCutFromWord := fun w =>
  ⟨toNat_opField w, toNat_xField w, toNat_yField w, toNat_nField w, toNat_kkField w, toNat_nnnField w,
    kkField_eq_append w, nnnField_eq_append w, takesFields_decodeWord w⟩

end Sys2Proof
end

section
/-! PROOF. The bytes of the word at two addresses (30_encoding.md R71). -/

namespace Sys2Proof

section
variable (hi lo : Byte)

@[simp] theorem hiByte_wordOfBytes : hiByte (wordOfBytes hi lo) = hi :=
  BitVec.extractLsb'_append_eq_left

@[simp] theorem loByte_wordOfBytes : loByte (wordOfBytes hi lo) = lo :=
  BitVec.extractLsb'_append_eq_right

theorem toNat_wordOfBytes : (wordOfBytes hi lo).toNat = 256 * hi.toNat + lo.toNat := by
  rw [wordOfBytes, BitVec.toNat_append, ← Nat.shiftLeft_add_eq_or_of_lt lo.isLt, Nat.shiftLeft_eq,
    Nat.mul_comm]

end

/-- Settles O7: the fetched word is `wordOfBytes` of the two bytes. -/
theorem fetchIsBigEndian : Obligations.FetchIsBigEndian := fun s h =>
  ⟨_, Machine.fetch_eq s h, hiByte_wordOfBytes _ _, loByte_wordOfBytes _ _, toNat_wordOfBytes _ _⟩

end Sys2Proof
end

section
/-! PROOF. The decoder reads back the word of every instruction (30_encoding.md R73, R76). One group of
cases per path of the dispatch: the two fixed words, formats `A`, `XK` and `XYN` decided by `op`, `XY`
with its last digit, and the groups `8`, `E` and `F`. -/

namespace Sys2Proof

theorem decodeWord_encode (i : Instr) : decodeWord (encode i) = .instr i := by
  cases i with
  | cls | ret => decide
  | jp | call | ldI | jpV0 => simp [encode, decodeWord]
  | seByte | sneByte | ldByte | addByte | rnd => simp [encode, decodeWord]
  | drw | seReg | sneReg => simp [encode, decodeWord]
  | ldReg | orReg | andReg | xorReg | addReg | subReg | shr | subnReg | shl =>
    simp [encode, decodeWord, decodeGroup8]
  | skp | sknp => simp [encode, decodeWord, decodeGroupE]
  | ldVxDT | ldVxK | ldDTVx | ldSTVx | addI | ldF | ldB | storeRegs | loadRegs =>
    simp [encode, decodeWord, decodeGroupF]

end Sys2Proof
end

section
/-! PROOF. The jump and the byte skips (41_control_flow.md R112, R114, R115). -/

namespace Sys2Proof.Machine

section
variable (nnn : Addr) (x : Nibble) (kk : Byte) (s : State)

theorem exec_jp : exec (.jp nnn) s = .next (s.writePc (addrImm nnn)) := rfl

theorem exec_seByte : exec (.seByte x kk) s = .next (skipIf (s.readV x = kk) s) := rfl

theorem exec_sneByte : exec (.sneByte x kk) s = .next (skipIf (s.readV x ≠ kk) s) := rfl

/-- The zero extension of a 12-bit operand keeps its value (R72). -/
@[simp] theorem toNat_addrImm : (addrImm nnn).toNat = nnn.toNat :=
  BitVec.toNat_setWidth_of_le (by decide)

end

/-- Settles O20: the two words are encodings, and both instructions end in the skip. -/
theorem byteSkips : Obligations.ByteSkips := fun x kk s =>
  ⟨decodeWord_encode (.seByte x kk), decodeWord_encode (.sneByte x kk),
    ⟨_, exec_seByte x kk s, s.skipIf_skips _⟩, ⟨_, exec_sneByte x kk s, s.skipIf_skips _⟩⟩

/-- Settles O18: the word is an encoding, and the jump is one write of `pc`. -/
theorem jumpSetsPc : Obligations.JumpSetsPc := fun nnn s =>
  ⟨decodeWord_encode (.jp nnn), _, exec_jp nnn s, toNat_addrImm nnn, rfl⟩

end Sys2Proof.Machine
end

section
/-! PROOF. The meanings of 42_alu.md as writes of the state. Seven instructions end in one register write;
the five flag writers end in a flag write, then a register write (R99). -/

namespace Sys2Proof.Machine

section
variable (a b : Byte)

theorem addByte_eq_add : addByte a b = a + b := rfl

theorem toNat_addByte : (addByte a b).toNat = (a.toNat + b.toNat) % 256 := BitVec.toNat_ofNat _ _

end

theorem flagByte_eq_zero_or_one (f : Bool) : flagByte f = 0#8 ∨ flagByte f = 1#8 := by
  cases f
  · exact .inl rfl
  · exact .inr rfl

/-- A register other than `VF` reads as before after a flag write. -/
theorem State.readV_writeVF_other (s : State) {r : Nibble} (hr : r ≠ 0xF#4) (f : Bool) :
    (s.writeVF f).readV r = s.readV r :=
  s.readV_writeV_other hr _

theorem State.writesFlagged_VF {s t : State} {x : Nibble} {v : Byte} {f : Bool}
    (h : s.writesFlagged t x v (flagByte f)) (hx : x ≠ 0xF#4) :
    t.readV 0xF#4 = 0#8 ∨ t.readV 0xF#4 = 1#8 := by
  obtain ⟨-, hVF, -⟩ := h
  rw [hVF hx]
  exact flagByte_eq_zero_or_one f

section
variable (x y : Nibble) (kk : Byte) (s : State)

theorem exec_ldByte : exec (.ldByte x kk) s = .next ((s.writeV x kk).advance 2) := rfl

theorem exec_addByte :
    exec (.addByte x kk) s = .next ((s.writeV x (addByte (s.readV x) kk)).advance 2) := rfl

theorem exec_ldReg : exec (.ldReg x y) s = .next ((s.writeV x (s.readV y)).advance 2) := rfl

theorem exec_orReg :
    exec (.orReg x y) s = .next ((s.writeV x (s.readV x ||| s.readV y)).advance 2) := rfl

theorem exec_andReg :
    exec (.andReg x y) s = .next ((s.writeV x (s.readV x &&& s.readV y)).advance 2) := rfl

theorem exec_xorReg :
    exec (.xorReg x y) s = .next ((s.writeV x (s.readV x ^^^ s.readV y)).advance 2) := rfl

theorem exec_rnd :
    exec (.rnd x kk) s = .next ((s.nextDraw.writeV x (s.drawn &&& kk)).advance 2) := rfl

theorem exec_addReg :
    exec (.addReg x y) s = .next (((s.writeVF (carryOut (s.readV x) (s.readV y))).writeV x
      (addByte (s.readV x) (s.readV y))).advance 2) := rfl

theorem exec_subReg :
    exec (.subReg x y) s = .next (((s.writeVF (noBorrow (s.readV x) (s.readV y))).writeV x
      ((s.writeVF (noBorrow (s.readV x) (s.readV y))).readV x -
        (s.writeVF (noBorrow (s.readV x) (s.readV y))).readV y)).advance 2) := rfl

theorem exec_shr :
    exec (.shr x y) s = .next (((s.writeVF (shrOut (s.readV x))).writeV x
      ((s.writeVF (shrOut (s.readV x))).readV x >>> 1)).advance 2) := rfl

theorem exec_subnReg :
    exec (.subnReg x y) s = .next (((s.writeVF (noBorrow (s.readV y) (s.readV x))).writeV x
      ((s.writeVF (noBorrow (s.readV y) (s.readV x))).readV y -
        (s.writeVF (noBorrow (s.readV y) (s.readV x))).readV x)).advance 2) := rfl

theorem exec_shl :
    exec (.shl x y) s = .next (((s.writeVF (shlOut (s.readV x))).writeV x
      ((s.writeVF (shlOut (s.readV x))).readV x <<< 1)).advance 2) := rfl

end

end Sys2Proof.Machine
end

section
/-! PROOF. Loads, the immediate sum and the logic operations (42_alu.md R131 to R136): the words are
encodings, and each instruction is one register write. -/

namespace Sys2Proof.Machine

/-- Settles O25: both loads end in one register write. -/
theorem loadsCopyIntoVx : Obligations.LoadsCopyIntoVx := fun x y kk s =>
  ⟨decodeWord_encode (.ldByte x kk), decodeWord_encode (.ldReg x y),
    ⟨_, exec_ldByte x kk s, s.writeV_advance_writesOne x kk⟩,
    ⟨_, exec_ldReg x y s, s.writeV_advance_writesOne x (s.readV y)⟩⟩

/-- Settles O26: one register write of the sum modulo 256, and a sum that reads the load's `kk` back. -/
theorem addImmediateWrapsWithoutFlag : Obligations.AddImmediateWrapsWithoutFlag := fun x kk s =>
  ⟨decodeWord_encode (.addByte x kk),
    ⟨_, _, exec_addByte x kk s, s.writeV_advance_writesOne x _, toNat_addByte _ _⟩,
    fun kk' => ⟨_, _, exec_ldByte x kk s, exec_addByte x kk' _, by simp [toNat_addByte]⟩⟩

/-- Settles O27: each operation ends in one register write, of the bitwise operation on the operands. -/
theorem logicIsBitwiseWithoutFlag : Obligations.LogicIsBitwiseWithoutFlag := fun x y s =>
  ⟨decodeWord_encode (.orReg x y), decodeWord_encode (.andReg x y), decodeWord_encode (.xorReg x y),
    ⟨_, _, exec_orReg x y s, s.writeV_advance_writesOne x _, fun _ _ => BitVec.getLsbD_or⟩,
    ⟨_, _, exec_andReg x y s, s.writeV_advance_writesOne x _, fun _ _ => BitVec.getLsbD_and⟩,
    ⟨_, _, exec_xorReg x y s, s.writeV_advance_writesOne x _, fun _ _ => BitVec.getLsbD_xor⟩⟩

end Sys2Proof.Machine
end

section
/-! PROOF. Who writes `VF` among the ALU instructions when `x` is not 15 (42_alu.md R143). -/

namespace Sys2Proof.Machine

section
variable {x y : Nibble} (hx : x ≠ 0xF#4) (kk : Byte) (s : State)
include hx

/-- The seven instructions with one register write leave `VF` as it was. -/
theorem exec_keeps_VF :
    ∀ i ∈ [Instr.ldByte x kk, .addByte x kk, .ldReg x y, .orReg x y, .andReg x y, .xorReg x y,
        .rnd x kk],
      ∃ t, exec i s = .next t ∧ t.readV 0xF#4 = s.readV 0xF#4 := by
  have kept (u : State) (v : Byte) : ((u.writeV x v).advance 2).readV 0xF#4 = u.readV 0xF#4 :=
    u.readV_writeV_other hx.symm v
  simp only [List.forall_mem_cons]
  exact ⟨⟨_, exec_ldByte x kk s, kept s _⟩, ⟨_, exec_addByte x kk s, kept s _⟩,
    ⟨_, exec_ldReg x y s, kept s _⟩, ⟨_, exec_orReg x y s, kept s _⟩,
    ⟨_, exec_andReg x y s, kept s _⟩, ⟨_, exec_xorReg x y s, kept s _⟩,
    ⟨_, exec_rnd x kk s, kept s.nextDraw _⟩, nofun⟩

/-- The five flag writers leave 0 or 1 in `VF`, whatever `y` is. -/
theorem exec_flags_VF :
    ∀ i ∈ [Instr.addReg x y, .subReg x y, .shr x y, .subnReg x y, .shl x y],
      ∃ t, exec i s = .next t ∧ (t.readV 0xF#4 = 0#8 ∨ t.readV 0xF#4 = 1#8) := by
  have flagged (f : Bool) (v : Byte) :=
    State.writesFlagged_VF (s.writeVF_writeV_writesFlagged f x v) hx
  simp only [List.forall_mem_cons]
  exact ⟨⟨_, exec_addReg x y s, flagged _ _⟩, ⟨_, exec_subReg x y s, flagged _ _⟩,
    ⟨_, exec_shr x y s, flagged _ _⟩, ⟨_, exec_subnReg x y s, flagged _ _⟩,
    ⟨_, exec_shl x y s, flagged _ _⟩, nofun⟩

/-- With `y` not 15 either, the operands read after the flag write are the entry values, so each flag
writer leaves the flag and the result computed from them. -/
theorem exec_flagged_from_entry (hy : y ≠ 0xF#4) :
    ∀ p ∈ [(Instr.addReg x y, s.readV x + s.readV y,
              decide (255 < (s.readV x).toNat + (s.readV y).toNat)),
           (.subReg x y, s.readV x - s.readV y, decide ((s.readV y).toNat ≤ (s.readV x).toNat)),
           (.shr x y, s.readV x >>> 1, (s.readV x).getLsbD 0),
           (.subnReg x y, s.readV y - s.readV x, decide ((s.readV x).toNat ≤ (s.readV y).toNat)),
           (.shl x y, s.readV x <<< 1, (s.readV x).getLsbD 7)],
      ∃ t, exec p.1 s = .next t ∧ s.writesFlagged t x p.2.1 (if p.2.2 then 1#8 else 0#8) := by
  have flagged (f : Bool) (v : Byte) := s.writeVF_writeV_writesFlagged f x v
  have entryX := s.readV_writeVF_other hx
  have entryY := s.readV_writeVF_other hy
  simp only [List.forall_mem_cons, exec_addReg, exec_subReg, exec_shr, exec_subnReg, exec_shl,
    addByte_eq_add, entryX, entryY]
  exact ⟨⟨_, rfl, flagged _ _⟩, ⟨_, rfl, flagged _ _⟩, ⟨_, rfl, flagged _ _⟩, ⟨_, rfl, flagged _ _⟩,
    ⟨_, rfl, flagged _ _⟩, nofun⟩

end

/-- Settles O31: the seven that keep `VF`, the five that flag it, and the five from the entry values. -/
theorem aluFlagWritersAreFive : Obligations.AluFlagWritersAreFive := fun _ _ kk s hx =>
  ⟨exec_keeps_VF hx kk s, exec_flags_VF hx s, exec_flagged_from_entry hx s⟩

end Sys2Proof.Machine
end

section
/-! PROOF. The two loads of the index register (43_index_memory.md R151, R153): each is one write of `I`,
then the advance. -/

namespace Sys2Proof.Machine

section
variable (nnn : Addr) (x : Nibble) (s : State)

theorem exec_ldI : exec (.ldI nnn) s = .next ((s.writeI (addrImm nnn)).advance 2) := rfl

theorem exec_ldF : exec (.ldF x) s = .next ((s.writeI (s.glyphAddr x)).advance 2) := rfl

/-- The whole byte is multiplied (R153): the largest product, 1275, fits the 16 bits of `I`. -/
@[simp] theorem State.toNat_glyphAddr : (s.glyphAddr x).toNat = 5 * (s.readV x).toNat := by
  have fits : (s.readV x).toNat * 5 < 2 ^ 16 := by
    have := (s.readV x).isLt
    omega
  rw [State.glyphAddr, BitVec.toNat_ofNat, Nat.mod_eq_of_lt fits, Nat.mul_comm]

end

/-- Settles O33: the words are encodings, and each load is one write of `I` before the advance. -/
theorem indexLoads : Obligations.IndexLoads := fun x nnn s =>
  ⟨decodeWord_encode (.ldI nnn), decodeWord_encode (.ldF x),
    ⟨_, exec_ldI nnn s, toNat_addrImm nnn, rfl, rfl⟩,
    ⟨_, exec_ldF x s, s.toNat_glyphAddr x, rfl, rfl⟩⟩

end Sys2Proof.Machine
end

section
/-! PROOF. Clear screen (44_display.md R171): one write of the blank display, then the advance. -/

namespace Sys2Proof.Machine

theorem exec_cls (s : State) :
    exec .cls s = .next ((s.writeDisplay (blankDisplay s.cfg.dispW s.cfg.dispH)).advance 2) := rfl

/-- Settles O39: the word is an encoding, and the written display is the blank one of the block's size. -/
theorem clearScreenClears : Obligations.ClearScreenClears :=
  ⟨decodeWord_encode .cls, fun s => ⟨_, exec_cls s, blankDisplay_sized _ _,
    pixel_blankDisplay _ _, rfl, rfl, rfl⟩⟩

end Sys2Proof.Machine
end

section
/-! PROOF. The frame-changed flag (44_display.md R175). Whatever `fc` is on entry, an instruction answers the
same state but for `fc`, which it has set or left as it was (`exec_withFc`). -/

namespace Sys2Proof.Machine

/-- The state with another frame-changed flag. -/
def State.withFc (s : State) (b : Bool) : State := { s with fc := b }

/-- The instruction sets `fc` in this state: `00E0`, and a `Dxyn` that does not fault (R175). -/
def setsFc (s : State) : Instr → Bool
  | .cls => true
  | .drw x y n => (faultOf (.drw x y n) s).isNone
  | _ => false

section
variable (s : State) (b : Bool)

theorem State.storeBytes_withFc (a : Nat) (bs : List Byte) :
    (s.withFc b).storeBytes a bs = (s.storeBytes a bs).withFc b := by
  induction bs generalizing s a with
  | nil => rfl
  | cons v bs ih => exact ih (s.writeByte a v) (a + 1)

theorem State.writeRegs_withFc (r : Nat) (bs : List Byte) :
    (s.withFc b).writeRegs r bs = (s.writeRegs r bs).withFc b := by
  induction bs generalizing s r with
  | nil => rfl
  | cons v bs ih => exact ih (s.writeV (BitVec.ofNat 4 r) v) (r + 1)

theorem skipIf_withFc (holds : Bool) : skipIf holds (s.withFc b) = (skipIf holds s).withFc b := by
  cases holds <;> rfl

end

section
variable (x y n : Nibble) (nnn : Addr) (s : State)

theorem exec_drw :
    exec (.drw x y n) s = guarded (.drw x y n) .memOutOfRange (s.memGuardFails n.toNat) s
      (((s.writeVF (s.drawSprite x y n).2).writeDisplay (s.drawSprite x y n).1).advance 2) := rfl

theorem exec_skp :
    exec (.skp x) s = guarded (.skp x) .keyOutOfRange (s.keyGuardFails x) s
      (skipIf (s.keyDown (s.keyOperand x)) s) := rfl

theorem exec_sknp :
    exec (.sknp x) s = guarded (.sknp x) .keyOutOfRange (s.keyGuardFails x) s
      (skipIf (!s.keyDown (s.keyOperand x)) s) := rfl

theorem exec_storeRegs :
    exec (.storeRegs x) s = guarded (.storeRegs x) .memOutOfRange (s.memGuardFails (blockSize x)) s
      (((s.storeBytes s.base (s.readRegs (blockSize x))).writeI (s.indexPastBlock x)).advance 2) := rfl

theorem exec_loadRegs :
    exec (.loadRegs x) s = guarded (.loadRegs x) .memOutOfRange (s.memGuardFails (blockSize x)) s
      (((s.writeRegs 0 (s.readBytes s.base (blockSize x))).writeI (s.indexPastBlock x)).advance 2) := rfl

theorem exec_ret_of_held (held : 0 < s.sp.val) :
    exec .ret s = .next ((s.pop held).writePc (s.top held + 2)) := dif_pos held

theorem exec_ret_of_empty (empty : ¬0 < s.sp.val) :
    exec .ret s = .next (s.raiseFault .stackUnderflow (some (encode .ret))) := dif_neg empty

theorem exec_call_of_room (room : s.sp.val < 16) :
    exec (.call nnn) s = .next ((s.push s.pc room).writePc (addrImm nnn)) := dif_pos room

theorem exec_call_of_full (full : ¬s.sp.val < 16) :
    exec (.call nnn) s = .next (s.raiseFault .stackOverflow (some (encode (.call nnn)))) := dif_neg full

theorem exec_ldVxK_of_key {k : Nibble} (h : s.lowestKey = some k) :
    exec (.ldVxK x) s = .next ((s.writeV x (k.setWidth 8)).advance 2) := by
  simp [exec, execLdVxK, h]

theorem exec_ldVxK_of_no_key (h : s.lowestKey = none) : exec (.ldVxK x) s = .next s := by
  simp [exec, execLdVxK, h]

/-- The guard that `Dxyn` runs is the one of the table of R202. -/
theorem faultOf_drw :
    faultOf (.drw x y n) s = if s.memGuardFails n.toNat then some .memOutOfRange else none := by
  simp only [memGuardFails_eq_true_iff]
  rfl

end

/-- Whether its guard passes or not, a guarded instruction keeps `fc` when its writes do. -/
theorem guarded_withFc (i : Instr) (c : FaultCause) (failed : Bool) (s writes : State) :
    ∃ t, guarded i c failed s writes = .next t ∧
      ∀ b, guarded i c failed (s.withFc b) (writes.withFc b) = .next (t.withFc b) := by
  cases failed with
  | false => exact ⟨_, rfl, fun _ => rfl⟩
  | true => exact ⟨_, rfl, fun _ => rfl⟩

/-- A `Dxyn` whose guard fails keeps `fc` as every fault does, and one whose guard passes sets it. -/
theorem exec_drw_withFc (x y n : Nibble) (s : State) :
    ∃ t, exec (.drw x y n) s = .next t ∧
      ∀ b, exec (.drw x y n) (s.withFc b) = .next (t.withFc (setsFc s (.drw x y n) || b)) := by
  simp only [exec_drw, setsFc, faultOf_drw]
  cases h : s.memGuardFails n.toNat with
  | false => exact ⟨_, rfl, fun _ => guarded_passes h⟩
  | true => exact ⟨_, rfl, fun _ => guarded_fails h⟩

/-- No instruction reads `fc`, and it ends as the entry value unless the instruction sets it (R175). Writes
of single fields keep `fc` by definition; the skips, the guards and the two block accesses by their lemmas. -/
theorem exec_withFc (i : Instr) (s : State) :
    ∃ t, exec i s = .next t ∧ ∀ b, exec i (s.withFc b) = .next (t.withFc (setsFc s i || b)) := by
  cases i with
  | cls => exact ⟨_, exec_cls s, fun b => exec_cls (s.withFc b)⟩
  | drw x y n => exact exec_drw_withFc x y n s
  | jp | jpV0 => exact ⟨_, rfl, fun _ => rfl⟩
  | ldByte | addByte | ldReg | orReg | andReg | xorReg | rnd => exact ⟨_, rfl, fun _ => rfl⟩
  | addReg | subReg | shr | subnReg | shl => exact ⟨_, rfl, fun _ => rfl⟩
  | ldI | addI | ldF | ldVxDT | ldDTVx | ldSTVx => exact ⟨_, rfl, fun _ => rfl⟩
  | seByte | sneByte | seReg | sneReg =>
    exact ⟨_, rfl, fun b => congrArg Host.Outcome.next (skipIf_withFc s b _)⟩
  | ret =>
    by_cases held : 0 < s.sp.val
    · exact ⟨_, exec_ret_of_held s held, fun b => exec_ret_of_held (s.withFc b) held⟩
    · exact ⟨_, exec_ret_of_empty s held, fun b => exec_ret_of_empty (s.withFc b) held⟩
  | call nnn =>
    by_cases room : s.sp.val < 16
    · exact ⟨_, exec_call_of_room nnn s room, fun b => exec_call_of_room nnn (s.withFc b) room⟩
    · exact ⟨_, exec_call_of_full nnn s room, fun b => exec_call_of_full nnn (s.withFc b) room⟩
  | ldVxK x =>
    cases h : s.lowestKey with
    | some k => exact ⟨_, exec_ldVxK_of_key x s h, fun b => exec_ldVxK_of_key x (s.withFc b) h⟩
    | none => exact ⟨_, exec_ldVxK_of_no_key x s h, fun b => exec_ldVxK_of_no_key x (s.withFc b) h⟩
  | ldB => exact guarded_withFc _ _ _ _ _
  | skp | sknp =>
    simp only [exec_skp, exec_sknp, skipIf_withFc]
    exact guarded_withFc _ _ _ _ _
  | storeRegs | loadRegs =>
    simp only [exec_storeRegs, exec_loadRegs, State.storeBytes_withFc, State.writeRegs_withFc]
    exact guarded_withFc _ _ _ _ _

/-- The state an instruction answers has `fc` set if the instruction sets it, else as on entry. -/
theorem exec_fc {i : Instr} {s t : State} (h : exec i s = .next t) : t.fc = (setsFc s i || s.fc) := by
  obtain ⟨u, hu, hfc⟩ := exec_withFc i s
  have same : Host.Outcome.next u = .next (u.withFc (setsFc s i || s.fc)) := hu.symm.trans (hfc s.fc)
  obtain rfl : u = t := by simpa using hu.symm.trans h
  exact congrArg State.fc (Host.Outcome.next.inj same)

/-- Settles O42: the clauses on `fc` after the instruction read off `exec_fc`, and the one on another `fc`
on entry is `exec_withFc`. -/
theorem frameFlagIsSetNeverReadOrCleared : Obligations.FrameFlagIsSetNeverReadOrCleared := by
  intro i s
  obtain ⟨t, ht, hwith⟩ := exec_withFc i s
  have hfc := exec_fc ht
  refine ⟨⟨t, ht, ?_, ?_, ?_, fun b => ⟨_, hwith b, rfl⟩⟩, _, rfl, rfl, rfl⟩
  · intro hset
    rw [hfc, hset, Bool.or_true]
  · rintro rfl
    exact hfc
  · rintro x y n rfl hpasses
    simp [hfc, setsFc, hpasses]

end Sys2Proof.Machine
end

section
/-! PROOF. The timer instructions as writes of the state (45_keys_timers.md R188, R190, R191), and the tick
that ends their cycle (40_cycle_engine.md R97). -/

namespace Sys2Proof.Machine

section
variable (x : Nibble) (s : State)

theorem exec_ldVxDT : exec (.ldVxDT x) s = .next ((s.writeV x s.DT).advance 2) := rfl

theorem exec_ldDTVx : exec (.ldDTVx x) s = .next ((s.writeDT (s.readV x)).advance 2) := rfl

theorem exec_ldSTVx : exec (.ldSTVx x) s = .next ((s.writeST (s.readV x)).advance 2) := rfl

end

/-- The tick takes one off and stops at 0, as the difference of natural numbers does. -/
theorem toNat_tickDown (v : Byte) : (tickDown v).toNat = v.toNat - 1 := by
  unfold tickDown
  split
  case isTrue positive => exact BitVec.toNat_sub_of_le positive
  case isFalse zero => omega

/-- An instruction that answers a running state is followed by the tick. -/
theorem finishCycle_exec {i : Instr} {s t : State} (h : exec i s = .next t) (running : t.running) :
    finishCycle (exec i s) = .next t.tick := by
  rw [h, finishCycle_running running]

/-- Settles O46: each word is an encoding, each instruction one write of its timer, and neither write
touches the fault latch, so the tick follows. -/
theorem timerWritesThenTick : Obligations.TimerWritesThenTick := fun x s =>
  ⟨decodeWord_encode (.ldDTVx x), decodeWord_encode (.ldSTVx x),
    ⟨_, exec_ldDTVx x s, rfl, rfl, rfl⟩, ⟨_, exec_ldSTVx x s, rfl, rfl, rfl⟩,
    fun running => ⟨⟨_, finishCycle_exec (exec_ldDTVx x s) running, toNat_tickDown _⟩,
      ⟨_, finishCycle_exec (exec_ldSTVx x s) running, toNat_tickDown _⟩⟩⟩

end Sys2Proof.Machine
end

section
/-! PROOF. No instruction reads `ST` (45_keys_timers.md R188): with another `ST` on entry it answers the same
state with that `ST`, or, when it is `Fx18`, the very same state (`exec_writeST`). -/

namespace Sys2Proof.Machine

section
variable (s : State) (v : Byte)

theorem State.storeBytes_writeST (a : Nat) (bs : List Byte) :
    (s.writeST v).storeBytes a bs = (s.storeBytes a bs).writeST v := by
  induction bs generalizing s a with
  | nil => rfl
  | cons b bs ih => exact ih (s.writeByte a b) (a + 1)

theorem State.writeRegs_writeST (r : Nat) (bs : List Byte) :
    (s.writeST v).writeRegs r bs = (s.writeRegs r bs).writeST v := by
  induction bs generalizing s r with
  | nil => rfl
  | cons b bs ih => exact ih (s.writeV (BitVec.ofNat 4 r) b) (r + 1)

theorem skipIf_writeST (holds : Bool) : skipIf holds (s.writeST v) = (skipIf holds s).writeST v := by
  rw [skipIf_eq, skipIf_eq]
  rfl

end

/-- The `ST` an instruction leaves when `ST` is `v` on entry: `V[x]` after `Fx18`, else `v` (R191). -/
def soundAfter (s : State) (v : Byte) : Instr → Byte
  | .ldSTVx x => s.readV x
  | _ => v

/-- Whether its guard passes or not, a guarded instruction keeps `ST` when its writes do. -/
theorem guarded_writeST (i : Instr) (c : FaultCause) (failed : Bool) (s writes : State) :
    ∃ t, guarded i c failed s writes = .next t ∧
      ∀ v, guarded i c failed (s.writeST v) (writes.writeST v) = .next (t.writeST v) := by
  cases failed with
  | false => exact ⟨_, rfl, fun _ => rfl⟩
  | true => exact ⟨_, rfl, fun _ => rfl⟩

/-- No instruction reads `ST`. Single writes, and the writes of a guarded `Dxyn` or `Fx33`, commute with the
write of `ST` by definition; the skips, the guards and the block accesses by their lemmas. -/
theorem exec_writeST (i : Instr) (s : State) :
    ∃ t, exec i s = .next t ∧ ∀ v, exec i (s.writeST v) = .next (t.writeST (soundAfter s v i)) := by
  cases i with
  | cls | jp | jpV0 => exact ⟨_, rfl, fun _ => rfl⟩
  | ldByte | addByte | ldReg | orReg | andReg | xorReg | rnd => exact ⟨_, rfl, fun _ => rfl⟩
  | addReg | subReg | shr | subnReg | shl => exact ⟨_, rfl, fun _ => rfl⟩
  | ldI | addI | ldF | ldVxDT | ldDTVx | ldSTVx => exact ⟨_, rfl, fun _ => rfl⟩
  | seByte | sneByte | seReg | sneReg =>
    exact ⟨_, rfl, fun v => congrArg Host.Outcome.next (skipIf_writeST s v _)⟩
  | ret =>
    by_cases held : 0 < s.sp.val
    · exact ⟨_, exec_ret_of_held s held, fun v => exec_ret_of_held (s.writeST v) held⟩
    · exact ⟨_, exec_ret_of_empty s held, fun v => exec_ret_of_empty (s.writeST v) held⟩
  | call nnn =>
    by_cases room : s.sp.val < 16
    · exact ⟨_, exec_call_of_room nnn s room, fun v => exec_call_of_room nnn (s.writeST v) room⟩
    · exact ⟨_, exec_call_of_full nnn s room, fun v => exec_call_of_full nnn (s.writeST v) room⟩
  | ldVxK x =>
    cases h : s.lowestKey with
    | some k => exact ⟨_, exec_ldVxK_of_key x s h, fun v => exec_ldVxK_of_key x (s.writeST v) h⟩
    | none => exact ⟨_, exec_ldVxK_of_no_key x s h, fun v => exec_ldVxK_of_no_key x (s.writeST v) h⟩
  | drw | ldB => exact guarded_writeST _ _ _ _ _
  | skp | sknp =>
    simp only [exec_skp, exec_sknp, skipIf_writeST]
    exact guarded_writeST _ _ _ _ _
  | storeRegs | loadRegs =>
    simp only [exec_storeRegs, exec_loadRegs, State.storeBytes_writeST, State.writeRegs_writeST]
    exact guarded_writeST _ _ _ _ _

/-- Settles O45: `Fx07` is one register write of the `DT` on entry, the tick leaves the registers alone, and
the clause on another `ST` is `exec_writeST`. -/
theorem delayTimerIsReadBeforeTick : Obligations.DelayTimerIsReadBeforeTick := by
  refine fun x s => ⟨decodeWord_encode (.ldVxDT x),
    ⟨_, exec_ldVxDT x s, s.writeV_advance_writesOne x s.DT⟩, fun running => ?_, fun i v => ?_⟩
  · exact ⟨_, finishCycle_exec (exec_ldVxDT x s) running, s.readV_writeV_same x s.DT, toNat_tickDown _⟩
  · obtain ⟨t, ht, hwith⟩ := exec_writeST i s
    exact ⟨t, _, ht, hwith v, rfl⟩

end Sys2Proof.Machine
end

section
/-! PROOF. The host's `load` (70_reset_and_hazards.md R231): what a ROM that fits leaves in memory and
in the other fields, and what the first cycle after it fetches and reports. -/

namespace Sys2Proof.Machine

/-- Storing bytes changes no field but memory (20_memory.md R57). -/
theorem State.storeBytes_withMem (s : State) (a : Nat) (bs : List Byte) (m : List Host.Cell) :
    { s.storeBytes a bs with mem := m } = { s with mem := m } := by
  induction bs generalizing s a with
  | nil => rfl
  | cons b bs ih => exact ih (s.writeByte a b) (a + 1)

/-- Past the font every byte of the reset contents is 0 (20_memory.md R51). -/
theorem State.readByte_resetWith_of_ge (c : Config) (d : Nat) {a : Nat} (h : 80 ≤ a) :
    (State.resetWith c d).readByte a = 0#8 :=
  dif_neg (Nat.not_lt.2 h)

/-- A running machine's cycle on an undecodable word reports that word and its address (R96, R100). -/
theorem cycleResult_unknown {s : State} {w w' : Word} (running : s.running) (hf : s.fetch = some w)
    (hd : decodeWord w = .unknown w') : cycleResult s = .unknownOpcode w' s.pc := by
  simp [cycleResult, s.running_iff.1 running, hf, hd]

section
variable (s : State) {bytes : List Byte} (fits : bytes.length ≤ maxRom)
include fits

theorem hostReply_load_of_fits : hostReply (.load bytes) s = .loaded := if_pos fits

theorem hostLoad_of_fits : hostLoad bytes s = (hostReset s).storeBytes 0x200 bytes := if_pos fits

theorem hostLoad_withMem_reset : { hostLoad bytes s with mem := (hostReset s).mem } = hostReset s := by
  rw [hostLoad_of_fits s fits]
  exact State.storeBytes_withMem _ _ _ _

theorem hostLoad_pc : (hostLoad bytes s).pc = 0x200#16 := by
  simp [hostLoad_of_fits s fits, hostReset]

theorem readByte_hostLoad_below {a : Nat} (h : a < 0x200) :
    (hostLoad bytes s).readByte a = (hostReset s).readByte a := by
  rw [hostLoad_of_fits s fits, State.readByte_storeBytes _ _ _ _ (Nat.add_le_add_left fits 0x200),
    dif_neg (by omega)]

/-- From `0x200` on, memory reads as the ROM followed by zeros. -/
theorem readByte_hostLoad_program {a : Nat} (h : 0x200 ≤ a) :
    (hostLoad bytes s).readByte a = (bytes[a - 0x200]?).getD 0#8 := by
  rw [hostLoad_of_fits s fits, State.readByte_storeBytes _ _ _ _ (Nat.add_le_add_left fits 0x200)]
  split
  case isTrue inRom => rw [List.getElem?_eq_getElem (by omega), Option.getD_some]
  case isFalse pastRom =>
    rw [List.getElem?_eq_none (by omega), Option.getD_none]
    exact State.readByte_resetWith_of_ge _ _ (by omega)

theorem fetch_hostLoad :
    (hostLoad bytes s).fetch = some ((bytes[0]?).getD 0#8 ++ (bytes[1]?).getD 0#8) := by
  have pc := hostLoad_pc s fits
  rw [fetch_eq _ (by rw [pc]; decide), pc, readByte_hostLoad_program s fits (by decide),
    readByte_hostLoad_program s fits (by decide)]
  rfl

end

theorem hostLoad_nil (s : State) : hostLoad [] s = hostReset s := rfl

/-- The empty ROM leaves zeros to fetch, and `0x0000` is no instruction (R231). -/
theorem cycleResult_hostLoad_nil (s : State) :
    cycleResult (hostLoad [] s) = .unknownOpcode 0x0000#16 0x200#16 :=
  cycleResult_unknown (s := hostLoad [] s) rfl (fetch_hostLoad s (Nat.zero_le _)) (by decide)

/-- Settles O56: the state of `load` is `hostLoad` on a ROM that fits, so each clause is a lemma on it. -/
theorem loadPlacesRom : Obligations.LoadPlacesRom := by
  refine fun s bytes fits =>
    ⟨hostReply_load_of_fits s fits, hostReset s, hostLoad bytes s, rfl, rfl, hostLoad_withMem_reset s fits,
      fun a from200 _ => readByte_hostLoad_program s fits from200,
      fun a below => readByte_hostLoad_below s fits below, fun a pastRom _ => ?_, ?_, fetch_hostLoad s fits⟩
  · rw [readByte_hostLoad_program s fits (by omega), List.getElem?_eq_none (by omega), Option.getD_none]
  · rintro rfl
    exact ⟨hostLoad_nil s, cycleResult_hostLoad_nil s⟩

end Sys2Proof.Machine
end

section
/-! PROOF. Both decoders read an encoding back (30_encoding.md R73, R76), and words written out from the
opcode map decode as it says. -/

namespace Sys2Proof

theorem decodeBytes_encode (i : Instr) :
    decodeBytes [hiByte (encode i), loByte (encode i)] = .ok (i, []) := by
  simp [decodeBytes, decodeWord_encode]

/-- Settles O1, from the decoder on the word of every instruction and on the word's two bytes. -/
theorem decodeInvertsEncode : Obligations.DecodeInvertsEncode := fun i =>
  ⟨wellFormed_all i, decodeWord_encode i, decodeBytes_encode i⟩

/-- Settles O6: six words are encodings written out, and `0000` matches no row. -/
theorem specWordsDecode : Obligations.SpecWordsDecode :=
  ⟨decodeWord_encode .ret, decodeWord_encode (.jp 0xABC), decodeWord_encode (.seByte 1 0x42),
    decodeWord_encode (.subnReg 1 2), decodeWord_encode (.drw 1 2 5), decodeWord_encode (.loadRegs 2),
    by decide⟩

end Sys2Proof
end

section
/-! PROOF. A word that decodes is the encoding of its instruction (30_encoding.md R76, R79): every test of
the decoder fixes one field of the word, and a word is its format's fields. -/

namespace Sys2Proof

/-- If the outcome is an instruction, `w` is its word. -/
def Decoded.EncodesTo (w : Word) (d : Decoded) : Prop :=
  ∀ i, d = .instr i → encode i = w

theorem encodesTo_instr {w : Word} {i : Instr} (h : encode i = w) : (Decoded.instr i).EncodesTo w := by
  simpa [Decoded.EncodesTo] using h

theorem encodesTo_unknown (w w' : Word) : (Decoded.unknown w').EncodesTo w := nofun

/-- Every group is a chain of tests on one field: under each test its answer has to encode to the word. -/
theorem encodesTo_ite {w : Word} {c : Prop} [Decidable c] {d e : Decoded} (hd : c → d.EncodesTo w)
    (he : ¬c → e.EncodesTo w) : (if c then d else e).EncodesTo w := by
  split
  case isTrue h => exact hd h
  case isFalse h => exact he h

section
variable {w : Word} {op n : Nibble} {kk : Byte} {nnn : Addr}

theorem formatA_of_fields (hop : opField w = op) (hnnn : nnnField w = nnn) : formatA op nnn = w := by
  rw [← hop, ← hnnn, formatA_fields]

theorem formatXK_of_fields (hop : opField w = op) (hkk : kkField w = kk) :
    formatXK op (xField w) kk = w := by
  rw [← hop, ← hkk, formatXK_fields]

theorem formatXYN_of_fields (hop : opField w = op) (hn : nField w = n) :
    formatXYN op (xField w) (yField w) n = w := by
  rw [← hop, ← hn, formatXYN_fields]

theorem encodesTo_decodeGroup0 (hop : opField w = 0x0#4) : (decodeGroup0 w).EncodesTo w :=
  encodesTo_ite (fun h => encodesTo_instr (formatA_of_fields hop h)) fun _ =>
  encodesTo_ite (fun h => encodesTo_instr (formatA_of_fields hop h)) fun _ => encodesTo_unknown w w

theorem encodesTo_decodeGroup8 (hop : opField w = 0x8#4) : (decodeGroup8 w).EncodesTo w := by
  unfold decodeGroup8
  repeat' refine encodesTo_ite (fun h => encodesTo_instr (formatXYN_of_fields hop h)) fun _ => ?_
  exact encodesTo_unknown w w

theorem encodesTo_decodeGroupE (hop : opField w = 0xE#4) : (decodeGroupE w).EncodesTo w := by
  unfold decodeGroupE
  repeat' refine encodesTo_ite (fun h => encodesTo_instr (formatXK_of_fields hop h)) fun _ => ?_
  exact encodesTo_unknown w w

theorem encodesTo_decodeGroupF (hop : opField w = 0xF#4) : (decodeGroupF w).EncodesTo w := by
  unfold decodeGroupF
  repeat' refine encodesTo_ite (fun h => encodesTo_instr (formatXK_of_fields hop h)) fun _ => ?_
  exact encodesTo_unknown w w

/-- Groups `5` and `9`: the one instruction of the group, when the last digit is 0. -/
theorem encodesTo_of_lastDigit {i : Instr} (hi : encode i = formatXYN op (xField w) (yField w) 0x0#4)
    (hop : opField w = op) :
    (if nField w = 0x0#4 then .instr i else Decoded.unknown w).EncodesTo w :=
  encodesTo_ite (fun h => encodesTo_instr (hi.trans (formatXYN_of_fields hop h))) fun _ =>
    encodesTo_unknown w w

end

/-- The last group selector is what is left when no other one is. -/
theorem opField_eq_F {op : Nibble} (h : op ∉ [0x0#4, 0x1#4, 0x2#4, 0x3#4, 0x4#4, 0x5#4, 0x6#4, 0x7#4,
    0x8#4, 0x9#4, 0xA#4, 0xB#4, 0xC#4, 0xD#4, 0xE#4]) : op = 0xF#4 := by
  revert op
  decide

theorem encodesTo_decodeWord (w : Word) : (decodeWord w).EncodesTo w := by
  unfold decodeWord
  refine encodesTo_ite encodesTo_decodeGroup0 fun h0 => ?_
  refine encodesTo_ite (fun h => encodesTo_instr (formatA_of_fields h rfl)) fun h1 => ?_
  refine encodesTo_ite (fun h => encodesTo_instr (formatA_of_fields h rfl)) fun h2 => ?_
  refine encodesTo_ite (fun h => encodesTo_instr (formatXK_of_fields h rfl)) fun h3 => ?_
  refine encodesTo_ite (fun h => encodesTo_instr (formatXK_of_fields h rfl)) fun h4 => ?_
  refine encodesTo_ite (encodesTo_of_lastDigit rfl) fun h5 => ?_
  refine encodesTo_ite (fun h => encodesTo_instr (formatXK_of_fields h rfl)) fun h6 => ?_
  refine encodesTo_ite (fun h => encodesTo_instr (formatXK_of_fields h rfl)) fun h7 => ?_
  refine encodesTo_ite encodesTo_decodeGroup8 fun h8 => ?_
  refine encodesTo_ite (encodesTo_of_lastDigit rfl) fun h9 => ?_
  refine encodesTo_ite (fun h => encodesTo_instr (formatA_of_fields h rfl)) fun hA => ?_
  refine encodesTo_ite (fun h => encodesTo_instr (formatA_of_fields h rfl)) fun hB => ?_
  refine encodesTo_ite (fun h => encodesTo_instr (formatXK_of_fields h rfl)) fun hC => ?_
  refine encodesTo_ite (fun h => encodesTo_instr (formatXYN_of_fields h rfl)) fun hD => ?_
  refine encodesTo_ite encodesTo_decodeGroupE fun hE => ?_
  exact encodesTo_decodeGroupF (opField_eq_F (by simp [h0, h1, h2, h3, h4, h5, h6, h7, h8, h9, hA, hB,
    hC, hD, hE]))

theorem encode_of_decodeWord {w : Word} {i : Instr} (h : decodeWord w = .instr i) : encode i = w :=
  encodesTo_decodeWord w i h

/-- Settles O2: whatever the decoder answers, it encodes back to the word. -/
theorem encodeInvertsDecode : Obligations.EncodeInvertsDecode := fun _ _ h => encode_of_decodeWord h

end Sys2Proof
end

section
/-! PROOF. The table of unknown words (30_encoding.md R77): each group of the decoder on its own, then the
dispatch on `op`. -/

namespace Sys2Proof

/-- The outcome is an instruction, or the report of `w` itself. -/
def Decoded.OfWord (w : Word) (d : Decoded) : Prop :=
  (∃ i, d = .instr i) ∨ d = .unknown w

@[simp] theorem ofWord_instr (w : Word) (i : Instr) : (Decoded.instr i).OfWord w := .inl ⟨i, rfl⟩

@[simp] theorem ofWord_unknown (w : Word) : (Decoded.unknown w).OfWord w := .inr rfl

theorem ofWord_ite {w : Word} {c : Prop} [Decidable c] {d e : Decoded} (hd : d.OfWord w)
    (he : e.OfWord w) : (if c then d else e).OfWord w := by
  split
  · exact hd
  · exact he

@[simp] theorem ofWord_decodeGroup0 (w : Word) : (decodeGroup0 w).OfWord w := by
  unfold decodeGroup0
  repeat' apply ofWord_ite
  all_goals simp

@[simp] theorem ofWord_decodeGroup8 (w : Word) : (decodeGroup8 w).OfWord w := by
  unfold decodeGroup8
  repeat' apply ofWord_ite
  all_goals simp

@[simp] theorem ofWord_decodeGroupE (w : Word) : (decodeGroupE w).OfWord w := by
  unfold decodeGroupE
  repeat' apply ofWord_ite
  all_goals simp

@[simp] theorem ofWord_decodeGroupF (w : Word) : (decodeGroupF w).OfWord w := by
  unfold decodeGroupF
  repeat' apply ofWord_ite
  all_goals simp

theorem ofWord_decodeWord (w : Word) : (decodeWord w).OfWord w := by
  unfold decodeWord
  repeat' apply ofWord_ite
  all_goals simp

/-- A test whose positive answer is an instruction is passed by on the way to the report. -/
theorem ite_instr_eq_unknown_iff {c : Prop} [Decidable c] {i : Instr} {d : Decoded} {w : Word} :
    (if c then .instr i else d) = .unknown w ↔ ¬c ∧ d = .unknown w := by
  split <;> simp_all

section
variable (w : Word)

theorem decodeGroup0_eq_unknown_iff :
    decodeGroup0 w = .unknown w ↔ nnnField w ≠ 0x0E0#12 ∧ nnnField w ≠ 0x0EE#12 := by
  simp [decodeGroup0, ite_instr_eq_unknown_iff]

theorem decodeGroup8_eq_unknown_iff :
    decodeGroup8 w = .unknown w ↔
      nField w ∈ [0x8#4, 0x9#4, 0xA#4, 0xB#4, 0xC#4, 0xD#4, 0xF#4] := by
  have complement : ∀ n : Nibble, n ∉ [0x0#4, 0x1#4, 0x2#4, 0x3#4, 0x4#4, 0x5#4, 0x6#4, 0x7#4, 0xE#4] ↔
      n ∈ [0x8#4, 0x9#4, 0xA#4, 0xB#4, 0xC#4, 0xD#4, 0xF#4] := by decide
  rw [← complement]
  simp [decodeGroup8, ite_instr_eq_unknown_iff]

theorem decodeGroupE_eq_unknown_iff :
    decodeGroupE w = .unknown w ↔ kkField w ≠ 0x9E#8 ∧ kkField w ≠ 0xA1#8 := by
  simp [decodeGroupE, ite_instr_eq_unknown_iff]

theorem decodeGroupF_eq_unknown_iff :
    decodeGroupF w = .unknown w ↔
      kkField w ∉ [0x07#8, 0x0A#8, 0x15#8, 0x18#8, 0x1E#8, 0x29#8, 0x33#8, 0x55#8, 0x65#8] := by
  simp [decodeGroupF, ite_instr_eq_unknown_iff]

/-- The sixteen groups (R75). -/
theorem opField_mem : opField w ∈ [0x0#4, 0x1#4, 0x2#4, 0x3#4, 0x4#4, 0x5#4, 0x6#4, 0x7#4, 0x8#4, 0x9#4,
    0xA#4, 0xB#4, 0xC#4, 0xD#4, 0xE#4, 0xF#4] := by
  generalize opField w = op
  revert op
  decide

end

/-- Settles O5: under each `op` the decoder is one group, whose unknown words are known. -/
theorem unknownWordsAreExactly : Obligations.UnknownWordsAreExactly := by
  refine fun w => ⟨ofWord_decodeWord w, ?_⟩
  have groups := opField_mem w
  simp only [List.mem_cons, List.not_mem_nil, or_false] at groups
  rcases groups with h | h | h | h | h | h | h | h | h | h | h | h | h | h | h | h
  all_goals simp [decodeWord, h, decodeGroup0_eq_unknown_iff, decodeGroup8_eq_unknown_iff,
    decodeGroupE_eq_unknown_iff, decodeGroupF_eq_unknown_iff]

end Sys2Proof
end

section
/-! PROOF. The opcode map (30_encoding.md R76). A word that decodes is an encoding, which its row accepts;
a word that a row accepts has the row's fields, by which the decoder chooses. -/

namespace Sys2Proof

/-- Mask `0xFFFF` keeps the whole word (R76). -/
theorem and_FFFF (w : Word) : w &&& 0xFFFF#16 = w := BitVec.and_allOnes

open Laws in
/-- Every instruction's word is accepted by the instruction's own row. -/
theorem rowMatch (i : Instr) : RowMatch.Statement i := by
  cases i with
  | cls => exact RowMatch.cls
  | ret => exact RowMatch.ret
  | jp => exact RowMatch.jp _
  | call => exact RowMatch.call _
  | seByte => exact RowMatch.seByte _ _
  | sneByte => exact RowMatch.sneByte _ _
  | seReg => exact RowMatch.seReg _ _
  | ldByte => exact RowMatch.ldByte _ _
  | addByte => exact RowMatch.addByte _ _
  | ldReg => exact RowMatch.ldReg _ _
  | orReg => exact RowMatch.orReg _ _
  | andReg => exact RowMatch.andReg _ _
  | xorReg => exact RowMatch.xorReg _ _
  | addReg => exact RowMatch.addReg _ _
  | subReg => exact RowMatch.subReg _ _
  | shr => exact RowMatch.shr _ _
  | subnReg => exact RowMatch.subnReg _ _
  | shl => exact RowMatch.shl _ _
  | sneReg => exact RowMatch.sneReg _ _
  | ldI => exact RowMatch.ldI _
  | jpV0 => exact RowMatch.jpV0 _
  | rnd => exact RowMatch.rnd _ _
  | drw => exact RowMatch.drw _ _ _
  | skp => exact RowMatch.skp _
  | sknp => exact RowMatch.sknp _
  | ldVxDT => exact RowMatch.ldVxDT _
  | ldVxK => exact RowMatch.ldVxK _
  | ldDTVx => exact RowMatch.ldDTVx _
  | ldSTVx => exact RowMatch.ldSTVx _
  | addI => exact RowMatch.addI _
  | ldF => exact RowMatch.ldF _
  | ldB => exact RowMatch.ldB _
  | storeRegs => exact RowMatch.storeRegs _
  | loadRegs => exact RowMatch.loadRegs _

theorem row_accepts_of_decodeWord {w : Word} {i : Instr} (h : decodeWord w = .instr i) {row : OpcodeRow}
    (hrow : opcodeRows[i.rowIndex]? = some row) : w &&& row.mask = row.pattern := by
  obtain ⟨r, hr, haccepts⟩ := rowMatch i
  rw [hrow] at hr
  cases hr
  rw [encode_of_decodeWord h] at haccepts
  exact of_decide_eq_true haccepts

/-- Rows 0 and 1 fix the whole word. In every other row the mask keeps `op` and, in the groups `5`, `8`, `9`,
`E` and `F`, the digits that the group's tests look at; so the row's pattern decides every test. -/
theorem decodeWord_of_row_accepts {w : Word} {k : Nat} {row : OpcodeRow}
    (hrow : opcodeRows[k]? = some row) (hw : w &&& row.mask = row.pattern) :
    ∃ i, decodeWord w = .instr i ∧ i.rowIndex = k := by
  obtain ⟨hk, rfl⟩ := List.getElem?_eq_some_iff.1 hrow
  change k < 34 at hk
  interval_cases k
  · rw [show w = 0x00E0#16 from (and_FFFF w).symm.trans hw]
    exact ⟨.cls, by decide, rfl⟩
  · rw [show w = 0x00EE#16 from (and_FFFF w).symm.trans hw]
    exact ⟨.ret, by decide, rfl⟩
  all_goals
    simp only [opcodeRows, opcodeRowsLow, opcodeRowsHigh, List.cons_append, List.getElem_cons_succ,
      List.nil_append, List.getElem_cons_zero, and_F000, and_F00F, and_F0FF] at hw
    have hop := congrArg opField hw
    have hn := congrArg nField hw
    have hkk := congrArg kkField hw
    simp only [opField_formatA, opField_formatXYN, opField_formatXK, nField_formatXYN,
      kkField_formatXK] at hop hn hkk
    simp +decide [decodeWord, decodeGroup8, decodeGroupE, decodeGroupF, hop, hn, hkk, Instr.rowIndex]

/-- Settles O4: a word is its row's exactly when it decodes to an instruction of that row. -/
theorem decodeFollowsOpcodeMap : Obligations.DecodeFollowsOpcodeMap := by
  refine ⟨rfl, fun w k row hrow => ⟨decodeWord_of_row_accepts hrow, ?_⟩⟩
  rintro ⟨i, hdecode, rfl⟩
  exact row_accepts_of_decodeWord hdecode hrow

end Sys2Proof
end

section
/-! PROOF. What `exec` answers, said once for all instructions: the fault of the table of 60_exceptions.md
R202 where the instruction's guard fails, else the instruction's writes (`exec_eq`). -/

namespace Sys2Proof.Machine

/-- The writes of the instruction whose guard has passed (40_cycle_engine.md R93, R95). -/
def effect (i : Instr) (s : State) : State :=
  match i with
  | .cls => (s.writeDisplay (blankDisplay s.cfg.dispW s.cfg.dispH)).advance 2
  | .ret => if held : 0 < s.sp.val then (s.pop held).writePc (s.top held + 2) else s
  | .jp nnn => s.writePc (addrImm nnn)
  | .call nnn => if room : s.sp.val < 16 then (s.push s.pc room).writePc (addrImm nnn) else s
  | .seByte x kk => skipIf (s.readV x = kk) s
  | .sneByte x kk => skipIf (s.readV x ≠ kk) s
  | .seReg x y => skipIf (s.readV x = s.readV y) s
  | .ldByte x kk => (s.writeV x kk).advance 2
  | .addByte x kk => (s.writeV x (addByte (s.readV x) kk)).advance 2
  | .ldReg x y => (s.writeV x (s.readV y)).advance 2
  | .orReg x y => (s.writeV x (s.readV x ||| s.readV y)).advance 2
  | .andReg x y => (s.writeV x (s.readV x &&& s.readV y)).advance 2
  | .xorReg x y => (s.writeV x (s.readV x ^^^ s.readV y)).advance 2
  | .addReg x y =>
    ((s.writeVF (carryOut (s.readV x) (s.readV y))).writeV x
      (addByte (s.readV x) (s.readV y))).advance 2
  | .subReg x y =>
    let flagged := s.writeVF (noBorrow (s.readV x) (s.readV y))
    (flagged.writeV x (flagged.readV x - flagged.readV y)).advance 2
  | .shr x _ =>
    let flagged := s.writeVF (shrOut (s.readV x))
    (flagged.writeV x (flagged.readV x >>> 1)).advance 2
  | .subnReg x y =>
    let flagged := s.writeVF (noBorrow (s.readV y) (s.readV x))
    (flagged.writeV x (flagged.readV y - flagged.readV x)).advance 2
  | .shl x _ =>
    let flagged := s.writeVF (shlOut (s.readV x))
    (flagged.writeV x (flagged.readV x <<< 1)).advance 2
  | .sneReg x y => skipIf (s.readV x ≠ s.readV y) s
  | .ldI nnn => (s.writeI (addrImm nnn)).advance 2
  | .jpV0 nnn => s.writePc (s.offsetTarget nnn)
  | .rnd x kk => (s.nextDraw.writeV x (s.drawn &&& kk)).advance 2
  | .drw x y n =>
    ((s.writeVF (s.drawSprite x y n).2).writeDisplay (s.drawSprite x y n).1).advance 2
  | .skp x => skipIf (s.keyDown (s.keyOperand x)) s
  | .sknp x => skipIf (!s.keyDown (s.keyOperand x)) s
  | .ldVxDT x => (s.writeV x s.DT).advance 2
  | .ldVxK x =>
    match s.lowestKey with
    | some k => (s.writeV x (k.setWidth 8)).advance 2
    | none => s
  | .ldDTVx x => (s.writeDT (s.readV x)).advance 2
  | .ldSTVx x => (s.writeST (s.readV x)).advance 2
  | .addI x =>
    let flagged := s.writeVF (indexPassed s.I (s.readV x))
    (flagged.writeI (addIndex flagged.I (flagged.readV x))).advance 2
  | .ldF x => (s.writeI (s.glyphAddr x)).advance 2
  | .ldB x => (s.storeBytes s.base (bcdDigits (s.readV x))).advance 2
  | .storeRegs x =>
    ((s.storeBytes s.base (s.readRegs (blockSize x))).writeI (s.indexPastBlock x)).advance 2
  | .loadRegs x =>
    ((s.writeRegs 0 (s.readBytes s.base (blockSize x))).writeI (s.indexPastBlock x)).advance 2

section
variable {s : State}

theorem effect_ret_of_held (held : 0 < s.sp.val) :
    effect .ret s = (s.pop held).writePc (s.top held + 2) := dif_pos held

theorem effect_ret_of_empty (empty : ¬0 < s.sp.val) : effect .ret s = s := dif_neg empty

theorem effect_call_of_room (nnn : Addr) (room : s.sp.val < 16) :
    effect (.call nnn) s = (s.push s.pc room).writePc (addrImm nnn) := dif_pos room

theorem effect_call_of_full (nnn : Addr) (full : ¬s.sp.val < 16) : effect (.call nnn) s = s := dif_neg full

theorem effect_ldVxK_of_key (x : Nibble) {k : Nibble} (h : s.lowestKey = some k) :
    effect (.ldVxK x) s = (s.writeV x (k.setWidth 8)).advance 2 := by
  simp [effect, h]

theorem effect_ldVxK_of_no_key (x : Nibble) (h : s.lowestKey = none) : effect (.ldVxK x) s = s := by
  simp [effect, h]

end

section
variable (s : State)

/-- The guard that `Fx33` runs is the one of the table of R202. -/
theorem faultOf_ldB (x : Nibble) :
    faultOf (.ldB x) s = if s.memGuardFails 3 then some .memOutOfRange else none := by
  simp only [memGuardFails_eq_true_iff]
  simp [faultOf]

/-- The guard that the block accesses run is the one of the table of R202. -/
theorem faultOf_block (x : Nibble) :
    faultOf (.storeRegs x) s = if s.memGuardFails (blockSize x) then some .memOutOfRange else none := by
  simp only [memGuardFails_eq_true_iff]
  simp [faultOf, blockSize]

end

/-- A guarded instruction whose guard is the table's: the fault or the writes. -/
theorem guarded_eq_of_faultOf {i : Instr} {c : FaultCause} {failed : Bool} {s writes : State}
    (h : faultOf i s = if failed then some c else none) :
    guarded i c failed s writes =
      .next ((faultOf i s).elim writes fun c => s.raiseFault c (some (encode i))) := by
  rw [h]
  cases failed <;> rfl

theorem exec_eq (i : Instr) (s : State) :
    exec i s = .next ((faultOf i s).elim (effect i s) fun c => s.raiseFault c (some (encode i))) := by
  cases i with
  | ret =>
    by_cases held : 0 < s.sp.val
    · simp [exec_ret_of_held s held, faultOf, effect_ret_of_held held, held.ne']
    · simp [exec_ret_of_empty s held, faultOf, Nat.eq_zero_of_not_pos held]
  | call nnn =>
    by_cases room : s.sp.val < 16
    · simp [exec_call_of_room nnn s room, faultOf, effect_call_of_room nnn room, room.ne]
    · simp [exec_call_of_full nnn s room, faultOf, show s.sp.val = 16 by omega]
  | drw x y n => exact guarded_eq_of_faultOf (faultOf_drw x y n s)
  | ldB x => exact guarded_eq_of_faultOf (faultOf_ldB s x)
  | storeRegs x => exact guarded_eq_of_faultOf (faultOf_block s x)
  | loadRegs x => exact guarded_eq_of_faultOf (faultOf_block s x)
  | skp x => exact guarded_eq_of_faultOf (by simp [faultOf, State.keyGuardFails])
  | sknp x => exact guarded_eq_of_faultOf (by simp [faultOf, State.keyGuardFails])
  | ldVxK x =>
    cases h : s.lowestKey with
    | some k => simp [exec_ldVxK_of_key x s h, faultOf, effect_ldVxK_of_key x h]
    | none => simp [exec_ldVxK_of_no_key x s h, faultOf, effect_ldVxK_of_no_key x h]
  | cls | jp | jpV0 | seByte | sneByte | seReg | sneReg => rfl
  | ldByte | addByte | ldReg | orReg | andReg | xorReg | rnd => rfl
  | addReg | subReg | shr | subnReg | shl => rfl
  | ldI | addI | ldF | ldVxDT | ldDTVx | ldSTVx => rfl

section
variable {i : Instr} {s t : State} {c : FaultCause}

theorem exec_of_fault (h : faultOf i s = some c) :
    exec i s = .next (s.raiseFault c (some (encode i))) := by
  rw [exec_eq, h, Option.elim_some]

theorem exec_of_no_fault (h : faultOf i s = none) : exec i s = .next (effect i s) := by
  rw [exec_eq, h, Option.elim_none]

/-- Everything that `exec` can answer (R201). -/
theorem exec_cases (h : exec i s = .next t) :
    (∃ c, faultOf i s = some c ∧ t = s.raiseFault c (some (encode i))) ∨
    (faultOf i s = none ∧ t = effect i s) := by
  cases hf : faultOf i s with
  | some c =>
    rw [exec_of_fault hf] at h
    exact .inl ⟨c, rfl, (Host.Outcome.next.inj h).symm⟩
  | none =>
    rw [exec_of_no_fault hf] at h
    exact .inr ⟨rfl, (Host.Outcome.next.inj h).symm⟩

end

@[simp] theorem skipIf_fault (b : Bool) (s : State) : (skipIf b s).fault = s.fault := by
  rw [skipIf_eq]

/-- No instruction but by its guard writes the fault latch (R201). -/
@[simp] theorem effect_fault (i : Instr) (s : State) : (effect i s).fault = s.fault := by
  cases i with
  | ret | call =>
    simp only [effect]
    split <;> rfl
  | ldVxK =>
    simp only [effect]
    split <;> rfl
  | _ => simp [effect]

/-- Settles O15, from what `exec` answers: the raised fault, or writes that leave the latch alone. -/
theorem instructionsFaultExactlyByGuard : Obligations.InstructionsFaultExactlyByGuard := by
  refine fun i s running => ⟨_, exec_eq i s, ?_⟩
  cases faultOf i s with
  | some c => exact s.raiseFault_latches c _
  | none => exact (effect_fault i s).trans running

end Sys2Proof.Machine
end

section
/-! PROOF. Which instructions write which piece of state (10_state.md R37). -/

namespace Sys2Proof.Machine

section
variable (s : State) (r : Nibble)

@[simp] theorem State.readV_push (v : Word) (room : s.sp.val < 16) : (s.push v room).readV r = s.readV r :=
  rfl

@[simp] theorem State.readV_pop (held : 0 < s.sp.val) : (s.pop held).readV r = s.readV r := rfl

@[simp] theorem State.readV_writeDT (v : Byte) : (s.writeDT v).readV r = s.readV r := rfl

@[simp] theorem State.readV_writeST (v : Byte) : (s.writeST v).readV r = s.readV r := rfl

@[simp] theorem State.readV_skipIf (holds : Bool) : (skipIf holds s).readV r = s.readV r := by
  rw [skipIf_eq]
  rfl

/-- The block that `Fx65` loads, register by register (43_index_memory.md R156). -/
theorem State.readV_loadBlock (x : Nibble) :
    (s.writeRegs 0 (s.readBytes s.base (blockSize x))).readV r =
      if r.toNat ≤ x.toNat then s.readByte (s.I.toNat + r.toNat) else s.readV r := by
  have fits : 0 + (s.readBytes s.base (blockSize x)).length ≤ 16 := by
    have := x.isLt
    simp [blockSize]
    omega
  rw [State.readV_writeRegs _ _ _ _ fits]
  simp [blockSize, State.base]

end

/-- From `s` to `t` every piece of state is as before unless `i` is one of its writers. -/
structure WrittenByWriters (i : Instr) (s t : State) : Prop where
  key : t.key = s.key
  cfg : t.cfg = s.cfg
  stack : (∀ nnn, i ≠ .call nnn) → t.stack = s.stack
  sp : (∀ nnn, i ≠ .call nnn) → i ≠ .ret → t.sp = s.sp
  disp : (∀ x y n, i ≠ .drw x y n) → i ≠ .cls → t.disp = s.disp
  mem : (∀ x, i ≠ .ldB x ∧ i ≠ .storeRegs x) → t.mem = s.mem
  DT : (∀ x, i ≠ .ldDTVx x) → t.DT = s.DT
  ST : (∀ x, i ≠ .ldSTVx x) → t.ST = s.ST
  I : (∀ nnn x, i ≠ .ldI nnn ∧ i ≠ .addI x ∧ i ≠ .ldF x ∧ i ≠ .storeRegs x ∧ i ≠ .loadRegs x) →
    t.I = s.I
  draws : (∀ x kk, i ≠ .rnd x kk) → t.draws = s.draws
  readV : ∀ r, i.writesReg r = false → (r = 0xF#4 → i.isFlagWriter = false) → t.readV r = s.readV r

theorem writtenByWriters_raiseFault (i : Instr) (s : State) (c : FaultCause) (w : Option Word) :
    WrittenByWriters i s (s.raiseFault c w) := by
  constructor <;> intros <;> rfl

theorem writtenByWriters_refl (i : Instr) (s : State) : WrittenByWriters i s s := by
  constructor <;> intros <;> rfl

/-- A skip writes `pc` only. -/
theorem writtenByWriters_skipIf (i : Instr) (s : State) (holds : Bool) :
    WrittenByWriters i s (skipIf holds s) := by
  constructor
  case readV => exact fun r _ _ => s.readV_skipIf r holds
  all_goals simp [skipIf_eq]

theorem writtenByWriters_effect (i : Instr) (s : State) : WrittenByWriters i s (effect i s) := by
  cases i with
  | seByte | sneByte | seReg | sneReg | skp | sknp => exact writtenByWriters_skipIf _ _ _
  | ret | call =>
    simp only [effect]
    split
    · constructor <;> simp
    · exact writtenByWriters_refl _ _
  | ldVxK =>
    simp only [effect]
    split
    · constructor
      case readV => simp +contextual [Instr.writesReg, State.readV_writeV]
      all_goals simp
    · exact writtenByWriters_refl _ _
  | cls | jp | jpV0 | ldI | ldF | ldB | storeRegs | ldDTVx | ldSTVx => constructor <;> simp [effect]
  | ldByte | addByte | ldReg | orReg | andReg | xorReg | rnd | ldVxDT =>
    constructor
    case readV => simp +contextual [effect, Instr.writesReg, State.readV_writeV]
    all_goals simp [effect]
  | addReg | subReg | shr | subnReg | shl | addI | drw =>
    constructor
    case readV =>
      simp +contextual [effect, Instr.writesReg, Instr.isFlagWriter, State.readV_writeV,
        State.readV_writeVF]
    all_goals simp [effect]
  | loadRegs =>
    constructor
    case readV => simp +contextual [effect, Instr.writesReg, State.readV_loadBlock]
    all_goals simp [effect]

theorem exec_writtenByWriters {i : Instr} {s t : State} (h : exec i s = .next t) :
    WrittenByWriters i s t := by
  rcases exec_cases h with ⟨c, -, rfl⟩ | ⟨-, rfl⟩
  · exact writtenByWriters_raiseFault i s c _
  · exact writtenByWriters_effect i s

theorem setsFc_eq_false {i : Instr} (s : State) (hdrw : ∀ x y n, i ≠ .drw x y n) (hcls : i ≠ .cls) :
    setsFc s i = false := by
  cases i with
  | cls => exact absurd rfl hcls
  | drw x y n => exact absurd rfl (hdrw x y n)
  | _ => rfl

/-- Settles O51: the writers of `fc` by `exec_fc`, those of every other piece by `exec_writtenByWriters`. -/
theorem stateIsWrittenOnlyByItsWriters : Obligations.StateIsWrittenOnlyByItsWriters := by
  intro i s t h
  have hfc := exec_fc h
  have w := exec_writtenByWriters h
  exact ⟨w.key, w.cfg, fun hset => by rw [hfc, hset, Bool.or_true],
    fun hcall => ⟨w.stack hcall, w.sp hcall⟩,
    fun hdrw hcls => ⟨w.disp hdrw hcls, by rw [hfc, setsFc_eq_false s hdrw hcls, Bool.false_or]⟩,
    w.mem, w.DT, w.ST, w.I, w.draws, w.readV⟩

end Sys2Proof.Machine
end

section
/-! PROOF. The cycle by kinds (40_cycle_engine.md R90, R100): every state is of one of five, and each kind has
its next state and its result. -/

namespace Sys2Proof.Machine

/-- The five ways a cycle can go (R91, R92, R96, R95, R201). -/
inductive CycleKind (s : State) : Prop
  | halted (latched : s.fault ≠ none)
  | fetchFault (running : s.running) (hf : s.fetch = none)
  | unknown (running : s.running) (w : Word) (hf : s.fetch = some w) (hd : decodeWord w = .unknown w)
  | faults (running : s.running) (i : Instr) (hi : s.fetches i) (c : FaultCause)
      (hc : faultOf i s = some c)
  | completes (running : s.running) (i : Instr) (hi : s.fetches i) (hc : faultOf i s = none)

/-- An unknown word is reported as itself (30_encoding.md R82). -/
theorem eq_of_decodeWord_unknown {w w' : Word} (h : decodeWord w = .unknown w') : w' = w := by
  rcases ofWord_decodeWord w with ⟨i, hi⟩ | hw
  · rw [hi] at h
    cases h
  · rw [hw] at h
    cases h
    rfl

theorem cycleKind (s : State) : CycleKind s := by
  by_cases running : s.running
  case neg => exact .halted running
  cases hf : s.fetch with
  | none => exact .fetchFault running hf
  | some w =>
    cases hd : decodeWord w with
    | unknown w' =>
      obtain rfl := eq_of_decodeWord_unknown hd
      exact .unknown running w' hf hd
    | instr i =>
      cases hc : faultOf i s with
      | some c => exact .faults running i ⟨w, hf, hd⟩ c hc
      | none => exact .completes running i ⟨w, hf, hd⟩ hc

/-- A fetched instruction's encoding is the word fetched (R79). -/
theorem State.fetch_of_fetches {s : State} {i : Instr} (h : s.fetches i) : s.fetch = some (encode i) := by
  obtain ⟨w, hf, hd⟩ := h
  rw [hf, encode_of_decodeWord hd]

theorem eq_of_next {o : Host.Outcome State Fault Refusal} {t u : State} (ht : o = .next t)
    (hu : o = .next u) : t = u :=
  Host.Outcome.next.inj (ht.symm.trans hu)

/-- A word that is reported as unknown is no instruction. -/
theorem State.not_fetches_of_unknown {s : State} {w w' : Word} (hf : s.fetch = some w)
    (hd : decodeWord w = .unknown w') (i : Instr) : ¬s.fetches i := by
  rintro ⟨v, hv, hi⟩
  obtain rfl := Option.some.inj (hf.symm.trans hv)
  rw [hd] at hi
  cases hi

section
variable {s : State}

theorem step_halted (latched : s.fault ≠ none) : step s = .next s :=
  cycle_halted (Option.isSome_iff_ne_none.2 latched)

theorem cycleResult_halted (latched : s.fault ≠ none) : cycleResult s = .halted :=
  if_pos (Option.isSome_iff_ne_none.2 latched)

theorem step_fetchFault (running : s.running) (hf : s.fetch = none) :
    step s = .next (s.raiseFault .fetchOutOfRange none) :=
  cycle_fetch_fault running hf

theorem cycleResult_fetchFault (running : s.running) (hf : s.fetch = none) :
    cycleResult s = .fault .fetchOutOfRange := by
  simp [cycleResult, s.running_iff.1 running, hf]

theorem step_unknown {w w' : Word} (running : s.running) (hf : s.fetch = some w)
    (hd : decodeWord w = .unknown w') : step s = .next s.skipUnknown.tick :=
  (cycle_runs running hf).trans (runWord_unknown s hd)

section
variable {i : Instr} (running : s.running) (hi : s.fetches i)
include running hi

theorem step_of_fetches : step s = finishCycle (exec i s) := by
  obtain ⟨w, hf, hd⟩ := hi
  exact (cycle_runs running hf).trans (runWord_instr s hd)

theorem cycleResult_of_fetches : cycleResult s = execResult i s := by
  obtain ⟨w, hf, hd⟩ := hi
  simp [cycleResult, s.running_iff.1 running, hf, hd]

theorem step_faults {c : FaultCause} (hc : faultOf i s = some c) :
    step s = .next (s.raiseFault c s.fetch) := by
  rw [step_of_fetches running hi, exec_of_fault hc, State.fetch_of_fetches hi]
  exact finishCycle_faulted rfl

theorem cycleResult_faults {c : FaultCause} (hc : faultOf i s = some c) : cycleResult s = .fault c := by
  simp [cycleResult_of_fetches running hi, execResult, exec_of_fault hc]

theorem step_completes (hc : faultOf i s = none) : step s = .next (effect i s).tick := by
  rw [step_of_fetches running hi, exec_of_no_fault hc]
  exact finishCycle_running ((effect_fault i s).trans running)

theorem cycleResult_completes (hc : faultOf i s = none) :
    cycleResult s = if isStalled i s then .stalled else .ok := by
  simp [cycleResult_of_fetches running hi, execResult, exec_of_no_fault hc, s.running_iff.1 running]

end

end

/-- Every cycle completes (R90). -/
theorem exists_step (s : State) : ∃ t, step s = .next t := by
  cases cycleKind s with
  | halted latched => exact ⟨_, step_halted latched⟩
  | fetchFault running hf => exact ⟨_, step_fetchFault running hf⟩
  | unknown running w hf hd => exact ⟨_, step_unknown running hf hd⟩
  | faults running i hi c hc => exact ⟨_, step_faults running hi hc⟩
  | completes running i hi hc => exact ⟨_, step_completes running hi hc⟩

end Sys2Proof.Machine
end

section
/-! PROOF. The faults and the halted machine (60_exceptions.md R201; 40_cycle_engine.md R91). -/

namespace Sys2Proof.Machine

/-- No instruction's guard raises the fetch fault (R202). -/
theorem faultOf_ne_fetchOutOfRange (i : Instr) (s : State) : faultOf i s ≠ some .fetchOutOfRange := by
  cases i with
  | call | ret | drw | ldB | storeRegs | loadRegs | skp | sknp =>
    simp only [faultOf]
    split <;> simp
  | _ => simp [faultOf]

/-- Settles O14, by the kinds of cycle: of the five only the fetch fault and a failed guard set the latch,
and a guard is evaluated on a fetched word. -/
theorem faultsArePrecise : Obligations.FaultsArePrecise := by
  intro s t running hstep hlatched
  cases cycleKind s with
  | halted latched => exact absurd running latched
  | fetchFault _ hf =>
    obtain rfl := eq_of_next hstep (step_fetchFault running hf)
    exact ⟨_, cycleResult_fetchFault running hf, by rw [hf]; exact s.raiseFault_latches _ _, by simp [hf]⟩
  | unknown _ w hf hd =>
    obtain rfl := eq_of_next hstep (step_unknown running hf hd)
    refine absurd ?_ hlatched
    unfold State.skipUnknown
    split <;> exact running
  | faults _ i hi c hc =>
    obtain rfl := eq_of_next hstep (step_faults running hi hc)
    refine ⟨c, cycleResult_faults running hi hc, s.raiseFault_latches _ _, ?_⟩
    have notFetch : c ≠ .fetchOutOfRange := fun h => faultOf_ne_fetchOutOfRange i s (h ▸ hc)
    simp [State.fetch_of_fetches hi, notFetch]
  | completes _ i hi hc =>
    obtain rfl := eq_of_next hstep (step_completes running hi hc)
    exact absurd ((effect_fault i s).trans running) hlatched

theorem hostLoad_running (bytes : List Byte) (s : State) : (hostLoad bytes s).running := by
  unfold hostLoad
  split
  · exact State.storeBytes_fault _ _ _
  · rfl

/-- Settles O9: the halted cycle is the identity, and the host's other operations do not write the latch. -/
theorem haltedMachineStaysHalted : Obligations.HaltedMachineStaysHalted := by
  refine fun s latched => ⟨step_halted latched, cycleResult_halted latched, fun m t hm hchanged => ?_⟩
  cases m with
  | reset =>
    cases hm
    exact ⟨rfl, .inl rfl⟩
  | load bytes =>
    cases hm
    exact ⟨hostLoad_running bytes s, .inr ⟨bytes, rfl⟩⟩
  | cycle =>
    obtain rfl := eq_of_next hm (step_halted latched)
    exact absurd rfl hchanged
  | setKey | readFrame | ackFrame | observe =>
    cases hm
    exact absurd rfl hchanged

/-- Settles O10: a `pc` above `0xFFE` is the fetch fault. -/
theorem fetchAboveTopFaults : Obligations.FetchAboveTopFaults := fun s running above =>
  have hf := fetch_none s above
  ⟨cycleResult_fetchFault running hf, _, step_fetchFault running hf, s.raiseFault_latches _ _⟩

end Sys2Proof.Machine
end

section
/-! PROOF. The results of a cycle and the timer tick (40_cycle_engine.md R96, R97, R100). -/

namespace Sys2Proof.Machine

theorem State.skipUnknown_eq (s : State) :
    s.skipUnknown = { s with pc := if s.cfg.unknownAdvance then s.pc + 2 else s.pc } := by
  unfold State.skipUnknown
  split <;> rfl

section
variable {pc : Word} (fetchable : pc.toNat ≤ 0xFFE)
include fetchable

/-- From a fetchable address the advance does not wrap (R93). -/
theorem toNat_pc_add_two : (pc + 2).toNat = pc.toNat + 2 :=
  BitVec.toNat_add_of_lt (by change pc.toNat + 2 < 65536; omega)

/-- From a fetchable address the skip does not wrap (R93). -/
theorem toNat_pc_add_four : (pc + 4).toNat = pc.toNat + 4 :=
  BitVec.toNat_add_of_lt (by change pc.toNat + 4 < 65536; omega)

end

/-- Settles O11: the report, and the skip and the tick field by field. -/
theorem unknownOpcodeIsReported : Obligations.UnknownOpcodeIsReported := by
  intro s w running hf hd
  refine ⟨cycleResult_unknown running hf hd, _, step_unknown running hf hd, ?_⟩
  rw [s.skipUnknown_eq]
  refine ⟨?_, toNat_tickDown _, toNat_tickDown _, rfl⟩
  cases h : s.cfg.unknownAdvance with
  | true => exact toNat_pc_add_two (fetch_some_le hf)
  | false => rfl

theorem mem_allKeys : ∀ k : Nibble, k ∈ allKeys := by decide

theorem State.lowestKey_eq_none_iff (s : State) : s.lowestKey = none ↔ ∀ k, s.keyDown k = false := by
  simp [State.lowestKey, List.find?_eq_none, mem_allKeys]

theorem isStalled_iff (i : Instr) (s : State) :
    isStalled i s = true ↔ (∃ x, i = .ldVxK x) ∧ ∀ k, s.keyDown k = false := by
  rw [← s.lowestKey_eq_none_iff]
  cases i <;> simp [isStalled]

/-- Settles O13, by the kinds of cycle. -/
theorem cycleResultsDescribeStep : Obligations.CycleResultsDescribeStep := by
  intro s
  cases cycleKind s with
  | halted latched =>
    rw [cycleResult_halted latched]
    exact ⟨s, step_halted latched, latched, rfl⟩
  | fetchFault running hf =>
    rw [cycleResult_fetchFault running hf, hf]
    exact ⟨_, step_fetchFault running hf, running, s.raiseFault_latches _ _⟩
  | unknown running w hf hd =>
    rw [cycleResult_unknown running hf hd]
    exact ⟨_, step_unknown running hf hd, running, hf, hd, rfl, by rw [s.skipUnknown_eq]; rfl⟩
  | faults running i hi c hc =>
    rw [cycleResult_faults running hi hc]
    exact ⟨_, step_faults running hi hc, running, s.raiseFault_latches _ _⟩
  | completes running i hi hc =>
    refine ⟨_, step_completes running hi hc, ?_⟩
    rw [cycleResult_completes running hi hc]
    by_cases stalled : isStalled i s = true
    · obtain ⟨⟨x, rfl⟩, up⟩ := (isStalled_iff i s).1 stalled
      have stays : effect (.ldVxK x) s = s :=
        effect_ldVxK_of_no_key x (s.lowestKey_eq_none_iff.2 up)
      rw [if_pos stalled, stays]
      exact ⟨running, ⟨x, hi⟩, up, rfl, rfl⟩
    · rw [if_neg stalled]
      exact ⟨running, i, _, hi, exec_of_no_fault hc, (effect_fault i s).trans running,
        fun h => stalled ((isStalled_iff i s).2 h), rfl⟩

/-- Settles O12: the tick ends every cycle that does not fault, and before it `DT` and `ST` are as on entry
unless the instruction is their one writer. -/
theorem timersTickOncePerCycle : Obligations.TimersTickOncePerCycle := by
  intro s t running hstep trunning
  cases cycleKind s with
  | halted latched => exact absurd running latched
  | fetchFault _ hf =>
    obtain rfl := eq_of_next hstep (step_fetchFault running hf)
    cases trunning
  | faults _ i hi c hc =>
    obtain rfl := eq_of_next hstep (step_faults running hi hc)
    cases trunning
  | unknown _ w hf hd =>
    obtain rfl := eq_of_next hstep (step_unknown running hf hd)
    have noInstr := State.not_fetches_of_unknown hf hd
    rw [s.skipUnknown_eq]
    exact ⟨fun x hx => absurd hx (noInstr _), fun _ => toNat_tickDown _, fun x hx => absurd hx (noInstr _),
      fun _ => toNat_tickDown _⟩
  | completes _ i hi hc =>
    obtain rfl := eq_of_next hstep (step_completes running hi hc)
    have written := writtenByWriters_effect i s
    refine ⟨fun x hx => ?_, fun other => ?_, fun x hx => ?_, fun other => ?_⟩
    · obtain rfl := State.fetches_unique hi hx
      exact toNat_tickDown _
    · rw [← written.DT fun x h => other x (h ▸ hi)]
      exact toNat_tickDown _
    · obtain rfl := State.fetches_unique hi hx
      exact toNat_tickDown _
    · rw [← written.ST fun x h => other x (h ▸ hi)]
      exact toNat_tickDown _

end Sys2Proof.Machine
end

section
/-! PROOF. The step depends on the draws to come only through `Cxkk` (40_cycle_engine.md section 1, the spec's
decision D15). -/

namespace Sys2Proof.Machine

/-- The state with another draw to come. -/
def State.withDraws (s : State) (d : Nat) : State := { s with draws := d }

section
variable (s : State) (d : Nat)

theorem State.storeBytes_withDraws (a : Nat) (bs : List Byte) :
    (s.withDraws d).storeBytes a bs = (s.storeBytes a bs).withDraws d := by
  induction bs generalizing s a with
  | nil => rfl
  | cons b bs ih => exact ih (s.writeByte a b) (a + 1)

theorem State.writeRegs_withDraws (r : Nat) (bs : List Byte) :
    (s.withDraws d).writeRegs r bs = (s.writeRegs r bs).withDraws d := by
  induction bs generalizing s r with
  | nil => rfl
  | cons b bs ih => exact ih (s.writeV (BitVec.ofNat 4 r) b) (r + 1)

theorem skipIf_withDraws (holds : Bool) :
    skipIf holds (s.withDraws d) = (skipIf holds s).withDraws d := by
  rw [skipIf_eq, skipIf_eq]
  rfl

theorem faultOf_withDraws (i : Instr) : faultOf i (s.withDraws d) = faultOf i s := by
  cases i <;> rfl

theorem isStalled_withDraws (i : Instr) : isStalled i (s.withDraws d) = isStalled i s := by
  cases i <;> rfl

/-- Every instruction but `Cxkk` hands the draws on. -/
theorem effect_withDraws {i : Instr} (other : ∀ x kk, i ≠ .rnd x kk) :
    effect i (s.withDraws d) = (effect i s).withDraws d := by
  cases i with
  | rnd x kk => exact absurd rfl (other x kk)
  | seByte | sneByte | seReg | sneReg | skp | sknp => exact skipIf_withDraws _ _ _
  | ret =>
    by_cases held : 0 < s.sp.val
    · rw [effect_ret_of_held held]
      exact effect_ret_of_held (s := s.withDraws d) held
    · rw [effect_ret_of_empty held]
      exact effect_ret_of_empty (s := s.withDraws d) held
  | call nnn =>
    by_cases room : s.sp.val < 16
    · rw [effect_call_of_room nnn room]
      exact effect_call_of_room (s := s.withDraws d) nnn room
    · rw [effect_call_of_full nnn room]
      exact effect_call_of_full (s := s.withDraws d) nnn room
  | ldVxK x =>
    cases h : s.lowestKey with
    | some k =>
      rw [effect_ldVxK_of_key x h]
      exact effect_ldVxK_of_key (s := s.withDraws d) x h
    | none =>
      rw [effect_ldVxK_of_no_key x h]
      exact effect_ldVxK_of_no_key (s := s.withDraws d) x h
  | ldB => exact congrArg (State.advance · 2) (s.storeBytes_withDraws d _ _)
  | storeRegs x =>
    exact congrArg (fun t => (State.writeI t (s.indexPastBlock x)).advance 2)
      (s.storeBytes_withDraws d _ _)
  | loadRegs x =>
    exact congrArg (fun t => (State.writeI t (s.indexPastBlock x)).advance 2)
      (s.writeRegs_withDraws d _ _)
  | _ => rfl

theorem cycleResult_withDraws : cycleResult (s.withDraws d) = cycleResult s := by
  cases cycleKind s with
  | halted latched =>
    rw [cycleResult_halted latched]
    exact cycleResult_halted latched
  | fetchFault running hf =>
    rw [cycleResult_fetchFault running hf]
    exact cycleResult_fetchFault running hf
  | unknown running w hf hd =>
    rw [cycleResult_unknown running hf hd]
    exact cycleResult_unknown running hf hd
  | faults running i hi c hc =>
    rw [cycleResult_faults running hi hc]
    exact cycleResult_faults (s := s.withDraws d) running hi ((faultOf_withDraws s d i).trans hc)
  | completes running i hi hc =>
    rw [cycleResult_completes running hi hc, ← isStalled_withDraws s d i]
    exact cycleResult_completes (s := s.withDraws d) running hi ((faultOf_withDraws s d i).trans hc)

/-- A cycle that fetches no `Cxkk` takes no draw and goes the same way whatever the draws to come are. -/
theorem step_withDraws (other : ∀ x kk, ¬s.fetches (.rnd x kk)) :
    ∃ t, step s = .next t ∧ t.draws = s.draws ∧ step (s.withDraws d) = .next (t.withDraws d) := by
  cases cycleKind s with
  | halted latched => exact ⟨s, step_halted latched, rfl, step_halted latched⟩
  | fetchFault running hf =>
    exact ⟨_, step_fetchFault running hf, rfl, step_fetchFault (s := s.withDraws d) running hf⟩
  | unknown running w hf hd =>
    refine ⟨_, step_unknown running hf hd, by rw [s.skipUnknown_eq]; rfl, ?_⟩
    rw [step_unknown (s := s.withDraws d) running hf hd, State.skipUnknown_eq, State.skipUnknown_eq]
    rfl
  | faults running i hi c hc =>
    exact ⟨_, step_faults running hi hc, rfl,
      step_faults (s := s.withDraws d) running hi ((faultOf_withDraws s d i).trans hc)⟩
  | completes running i hi hc =>
    have notRnd : ∀ x kk, i ≠ .rnd x kk := fun x kk h => other x kk (h ▸ hi)
    refine ⟨_, step_completes running hi hc, (writtenByWriters_effect i s).draws notRnd, ?_⟩
    rw [step_completes (s := s.withDraws d) running hi ((faultOf_withDraws s d i).trans hc),
      effect_withDraws s d notRnd]
    rfl

end

/-- Settles O16: without a `Cxkk` by `step_withDraws`; a `Cxkk` writes `V[x]` and counts its draw, whatever
byte it draws. -/
theorem onlyRandomDependsOnDraw : Obligations.OnlyRandomDependsOnDraw := by
  refine fun s d => ⟨cycleResult_withDraws s d, ?_⟩
  by_cases rnd : s.running ∧ ∃ x kk, s.fetches (.rnd x kk)
  · obtain ⟨running, x, kk, hi⟩ := rnd
    refine ⟨_, _, step_completes running hi rfl, step_completes (s := s.withDraws d) running hi rfl,
      fun noRnd => absurd hi (noRnd x kk), fun x' kk' _ hi' => ⟨rfl, rfl, rfl, fun r hr => ?_⟩⟩
    cases State.fetches_unique hi hi'
    exact (s.withDraws d).nextDraw.readV_writeV_other hr _ |>.trans
      (s.nextDraw.readV_writeV_other hr _).symm
  · by_cases running : s.running
    · obtain ⟨t, ht, hdraws, hu⟩ := step_withDraws s d fun x kk hi => rnd ⟨running, x, kk, hi⟩
      exact ⟨t, _, ht, hu, fun _ => ⟨hdraws, rfl⟩, fun x kk _ hi => absurd ⟨running, x, kk, hi⟩ rnd⟩
    · exact ⟨s, s.withDraws d, step_halted running, step_halted running, fun _ => ⟨rfl, rfl⟩,
        fun _ _ h => absurd h running⟩

end Sys2Proof.Machine
end

section
/-! PROOF. The `pc` an instruction leaves, by its class (40_cycle_engine.md R93; 10_state.md R23). -/

namespace Sys2Proof.Machine

section
variable (s : State)

/-- `nnn + V[0]` is at most `0x10FE`, so the 16 bits of `pc` hold it (41_control_flow.md R118). -/
theorem State.toNat_offsetTarget (nnn : Addr) :
    (s.offsetTarget nnn).toNat = nnn.toNat + (s.readV 0#4).toNat := by
  have hV : ((s.readV 0#4).setWidth 16).toNat = (s.readV 0#4).toNat :=
    BitVec.toNat_setWidth_of_le (by decide)
  have := nnn.isLt
  have := (s.readV 0#4).isLt
  rw [State.offsetTarget, BitVec.toNat_add_of_lt, toNat_addrImm, hV]
  rw [toNat_addrImm, hV]
  omega

section
variable (fetchable : s.pc.toNat ≤ 0xFFE)
include fetchable

theorem toNat_skipIf_pc (holds : Bool) :
    (skipIf holds s).pc.toNat = s.pc.toNat + if holds then 4 else 2 := by
  cases holds with
  | true => exact toNat_pc_add_four fetchable
  | false => exact toNat_pc_add_two fetchable

theorem toNat_effect_pc {i : Instr} (stackBounded : s.stackBounded) (hc : faultOf i s = none) :
    (effect i s).pc.toNat = pcAfter i s := by
  cases i with
  | jp nnn => exact toNat_addrImm nnn
  | jpV0 nnn => exact s.toNat_offsetTarget nnn
  | call nnn =>
    have room : s.sp.val < 16 := by
      have := s.sp.isLt
      simp [faultOf] at hc
      omega
    rw [effect_call_of_room nnn room]
    exact toNat_addrImm nnn
  | ret =>
    have held : 0 < s.sp.val := by
      simp [faultOf] at hc
      omega
    rw [effect_ret_of_held held, State.writePc_pc, pcAfter, dif_pos held]
    exact toNat_pc_add_two (stackBounded ⟨s.sp.val - 1, by omega⟩)
  | seByte | sneByte | seReg | sneReg | skp => simp [effect, pcAfter, toNat_skipIf_pc s fetchable]
  | sknp x =>
    cases h : s.keyDown (s.keyOperand x) with
    | true => simp [effect, pcAfter, toNat_skipIf_pc s fetchable, h]
    | false => simp [effect, pcAfter, toNat_skipIf_pc s fetchable, h]
  | ldVxK x =>
    cases h : s.lowestKey with
    | some k =>
      rw [effect_ldVxK_of_key x h]
      simpa [pcAfter, h] using toNat_pc_add_two fetchable
    | none => simp [effect_ldVxK_of_no_key x h, pcAfter, h]
  | ldB | storeRegs | loadRegs => simpa [effect, pcAfter] using toNat_pc_add_two fetchable
  | _ => exact toNat_pc_add_two fetchable

/-- The largest `pc` is that of `BFFF` with `V[0] = FF` (10_state.md R23). -/
theorem pcAfter_le (i : Instr) (stackBounded : s.stackBounded) : pcAfter i s ≤ 0x10FE := by
  cases i with
  | jp nnn | call nnn =>
    have := nnn.isLt
    simp only [pcAfter]
    omega
  | jpV0 nnn =>
    have := nnn.isLt
    have := (s.readV 0#4).isLt
    simp only [pcAfter]
    omega
  | ret =>
    simp only [pcAfter]
    split
    case isTrue held =>
      have : (s.top held).toNat ≤ 0xFFE := stackBounded ⟨s.sp.val - 1, by omega⟩
      omega
    case isFalse => omega
  | seByte | sneByte | seReg | sneReg | skp | sknp | ldVxK =>
    simp only [pcAfter]
    split <;> omega
  | _ =>
    simp only [pcAfter]
    omega

end

end

/-- Settles O17: a guard that passes leaves the effect, whose `pc` is that of the class. -/
theorem pcFollowsItsClass : Obligations.PcFollowsItsClass := by
  rintro i s ⟨-, -, -, stackBounded⟩ fetchable - hc
  exact ⟨_, exec_of_no_fault hc, toNat_effect_pc s fetchable stackBounded hc⟩

end Sys2Proof.Machine
end

section
/-! PROOF. Every step keeps the invariant (10_state.md R23, R24; log entries 11, 12), and so does every
sequence of host operations (70_reset_and_hazards.md R235). -/

namespace Sys2Proof.Machine

section
variable (i : Instr) (s : State)

theorem effect_memoryCanonical (h : s.memoryCanonical) : (effect i s).memoryCanonical := by
  have w := writtenByWriters_effect i s
  cases i with
  | ldB | storeRegs =>
    simpa [effect, State.memoryCanonical] using s.storeBytes_canonical _ _ h
  | _ =>
    rw [State.memoryCanonical, w.cfg, w.mem (by simp)]
    exact h

theorem effect_displaySized (h : s.displaySized) : (effect i s).displaySized := by
  have w := writtenByWriters_effect i s
  cases i with
  | cls => exact blankDisplay_sized _ _
  | drw => exact Grid.plotRows_sized _ _ _ h
  | _ =>
    rw [State.displaySized, w.cfg, w.disp (by simp) (by simp)]
    exact h

/-- Only `2nnn` writes a slot, with its own fetchable address (41_control_flow.md R113). -/
theorem effect_stackBounded (fetchable : s.pc.toNat ≤ 0xFFE) (h : s.stackBounded) :
    (effect i s).stackBounded := by
  have w := writtenByWriters_effect i s
  cases i with
  | call nnn =>
    by_cases room : s.sp.val < 16
    · rw [effect_call_of_room nnn room]
      intro k
      simp only [State.writePc_stack, State.push_stack, Vector.getElem_set]
      split
      · exact fetchable
      · exact h k
    · rw [effect_call_of_full nnn room]
      exact h
  | _ =>
    rw [State.stackBounded, w.stack (by simp)]
    exact h

end

theorem effect_inv {i : Instr} {s : State} (fetchable : s.pc.toNat ≤ 0xFFE) (hc : faultOf i s = none)
    (h : s.inv) : (effect i s).inv := by
  obtain ⟨memory, display, -, stack⟩ := h
  refine ⟨effect_memoryCanonical i s memory, effect_displaySized i s display, ?_,
    effect_stackBounded i s fetchable stack⟩
  rw [State.pcBounded, toNat_effect_pc s fetchable stack hc]
  exact pcAfter_le s fetchable i stack

/-- Settles O48, by the kinds of cycle: a fault changes the latch only, an unknown opcode moves a fetchable
`pc` by at most 2, an instruction's effect keeps the invariant, and the tick touches the timers only. -/
theorem stepKeepsInvariant : Obligations.StepKeepsInvariant := by
  intro s t h hstep
  cases cycleKind s with
  | halted latched =>
    obtain rfl := eq_of_next hstep (step_halted latched)
    exact h
  | fetchFault running hf =>
    obtain rfl := eq_of_next hstep (step_fetchFault running hf)
    exact h
  | unknown running w hf hd =>
    obtain rfl := eq_of_next hstep (step_unknown running hf hd)
    have fetchable := fetch_some_le hf
    obtain ⟨memory, display, -, stack⟩ := h
    rw [s.skipUnknown_eq]
    refine ⟨memory, display, ?_, stack⟩
    show (if s.cfg.unknownAdvance then s.pc + 2 else s.pc).toNat ≤ 0x10FE
    split
    · rw [toNat_pc_add_two fetchable]
      omega
    · omega
  | faults running i hi c hc =>
    obtain rfl := eq_of_next hstep (step_faults running hi hc)
    exact h
  | completes running i hi hc =>
    obtain rfl := eq_of_next hstep (step_completes running hi hc)
    exact effect_inv (fetch_some_le (State.fetch_of_fetches hi)) hc h

theorem resetWith_inv (c : Config) (d : Nat) : (State.resetWith c d).inv :=
  ⟨Memory.nil_wf _, blankDisplay_sized _ _, by simp [State.pcBounded], by simp [State.stackBounded]⟩

/-- Settles O49: reset memory lists nothing, the display is blank, `pc` is `0x200` and the slots are 0. -/
theorem resetHasInvariant : Obligations.ResetHasInvariant :=
  ⟨resetWith_inv defaultConfig 0, fun c d => ⟨resetWith_inv c d, rfl⟩⟩

theorem step_cfg {s t : State} (hstep : step s = .next t) : t.cfg = s.cfg := by
  rcases step_cases hstep with
    ⟨-, rfl⟩ | ⟨-, -, rfl⟩ | ⟨w, w', -, -, -, rfl⟩ | ⟨w, i, u, -, -, -, hu, ht⟩
  · rfl
  · rfl
  · rw [s.skipUnknown_eq]
    rfl
  · have same := (exec_writtenByWriters hu).cfg
    rcases ht with ⟨-, rfl⟩ | ⟨-, rfl⟩
    · exact same
    · exact same

theorem State.storeBytes_inv {s : State} (a : Nat) (bs : List Byte) (h : s.inv) :
    (s.storeBytes a bs).inv := by
  obtain ⟨memory, display, pc, stack⟩ := h
  have canonical := s.storeBytes_canonical a bs memory
  simpa [State.inv, State.memoryCanonical, State.displaySized, State.pcBounded, State.stackBounded] using
    ⟨canonical, display, pc, stack⟩

theorem hostLoad_inv (bytes : List Byte) (s : State) :
    (hostLoad bytes s).inv ∧ (hostLoad bytes s).cfg = s.cfg := by
  unfold hostLoad
  split
  · exact ⟨State.storeBytes_inv _ _ (resetWith_inv _ _), State.storeBytes_cfg _ _ _⟩
  · exact ⟨resetWith_inv _ _, rfl⟩

/-- Each host operation completes, keeps the invariant and leaves the parameters alone (R235). -/
theorem hostStep_inv (m : HostMove) {s : State} (h : s.inv) :
    ∃ t, hostStep m s = .next t ∧ t.inv ∧ t.cfg = s.cfg := by
  cases m with
  | reset => exact ⟨_, rfl, resetWith_inv _ _, rfl⟩
  | load bytes => exact ⟨_, rfl, hostLoad_inv bytes s⟩
  | cycle =>
    obtain ⟨t, ht⟩ := exists_step s
    exact ⟨t, ht, stepKeepsInvariant s t h ht, step_cfg ht⟩
  | setKey | readFrame | ackFrame | observe => exact ⟨_, rfl, h, rfl⟩

/-- Settles O50, by induction on the list of operations. -/
theorem hostRunsKeepInvariant : Obligations.HostRunsKeepInvariant := by
  intro ms
  induction ms with
  | nil => exact fun s h => ⟨s, rfl, h, rfl⟩
  | cons m ms ih =>
    intro s h
    obtain ⟨t, ht, tinv, tcfg⟩ := hostStep_inv m h
    obtain ⟨u, hu, uinv, ucfg⟩ := ih t tinv
    exact ⟨u, by rw [hostRun, ht]; exact hu, uinv, ucfg.trans tcfg⟩

end Sys2Proof.Machine
end

section
/-! PROOF. A step runs the instruction at `pc` (40_cycle_engine.md R90), and the end of a run
(70_reset_and_hazards.md R241, the spec's decision D28). -/

namespace Sys2Proof.Machine

theorem decodeWord_of_decodeBytes {hi lo : Byte} {i : Instr} {rest : List Byte}
    (h : decodeBytes [hi, lo] = .ok (i, rest)) : decodeWord (wordOfBytes hi lo) = .instr i := by
  cases hd : decodeWord (wordOfBytes hi lo) with
  | instr j =>
    simp only [decodeBytes, hd] at h
    cases h
    rfl
  | unknown w =>
    simp only [decodeBytes, hd] at h
    cases h

theorem finishCycle_next_eq (t : State) :
    finishCycle (.next t) = .next (if t.fault = none then t.tick else t) := by
  by_cases running : t.fault = none
  · rw [finishCycle_running running, if_pos running]
  · rw [finishCycle_faulted (Option.isSome_iff_ne_none.2 running), if_neg running]

/-- Settles O8: the bytes at `pc` are the fetched word's, and the cycle finishes what `exec` answers. -/
theorem stepRunsDecodedInstruction : Obligations.StepRunsDecodedInstruction := by
  intro s i running fetchable hbytes
  have hi : s.fetches i := ⟨_, fetch_eq s fetchable, decodeWord_of_decodeBytes hbytes⟩
  refine ⟨wellFormed_all i, _, exec_eq i s, ?_⟩
  rw [step_of_fetches running hi, exec_eq]
  exact finishCycle_next_eq _

section
variable {s : State}

/-- At a jump to itself the step is the tick alone. -/
theorem step_ended (h : s.ended) : step s = .next s.tick := by
  obtain ⟨running, nnn, hpc, hi⟩ := h
  have target : addrImm nnn = s.pc := BitVec.eq_of_toNat_eq ((toNat_addrImm nnn).trans hpc.symm)
  rw [step_completes running hi rfl, effect, target]
  rfl

theorem State.ended_tick (h : s.ended) : s.tick.ended := h

theorem run_succ_of_step {t : State} (h : step s = .next t) (k : Nat) :
    core.run (k + 1) s = core.run k t := by
  have hstep : core.step s = .next t := h
  simp only [Host.Core.run, hstep]

/-- Each cycle of an ended run takes one off both timers. -/
theorem run_ended (k : Nat) (h : s.ended) :
    ∃ t, core.run k s = .next t ∧ t.ended ∧ t.DT.toNat = s.DT.toNat - k ∧
      t.ST.toNat = s.ST.toNat - k := by
  induction k generalizing s with
  | zero => exact ⟨s, rfl, h, rfl, rfl⟩
  | succ k ih =>
    obtain ⟨t, ht, tended, hDT, hST⟩ := ih (State.ended_tick h)
    refine ⟨t, ?_, tended, ?_, ?_⟩
    · rw [run_succ_of_step (step_ended h)]
      exact ht
    · rw [hDT, State.tick_DT, toNat_tickDown]
      omega
    · rw [hST, State.tick_ST, toNat_tickDown]
      omega

theorem tick_of_zero (hDT : s.DT = 0#8) (hST : s.ST = 0#8) : s.tick = s := by
  have stays (v : Byte) (h : v = 0#8) : tickDown v = v := by rw [h]; rfl
  rw [State.tick, stays _ hDT, stays _ hST]

end

/-- Settles O53: a timer is at most 255, so 255 cycles of an ended run bring both to 0. -/
theorem endedRunReachesFixedPoint : Obligations.EndedRunReachesFixedPoint := by
  refine fun s h => ⟨⟨_, step_ended h, State.ended_tick h, rfl⟩, ?_⟩
  obtain ⟨t, hrun, tended, hDT, hST⟩ := run_ended 255 h
  have zero (v w : Byte) (hv : v.toNat = w.toNat - 255) : v = 0#8 := by
    have := w.isLt
    exact BitVec.eq_of_toNat_eq (by simp; omega)
  have DT := zero _ _ hDT
  have ST := zero _ _ hST
  exact ⟨t, hrun, (step_ended tended).trans (congrArg _ (tick_of_zero DT ST)), DT, ST⟩

end Sys2Proof.Machine
end

section
/-! PROOF. The host's operations (70_reset_and_hazards.md R230 to R235) and the codes of what they return
(60_exceptions.md R202, R211, R212). -/

namespace Sys2Proof.Machine

/-- A register of a fresh state is 0. -/
@[simp] theorem State.readV_resetWith (c : Config) (d : Nat) (r : Nibble) :
    (State.resetWith c d).readV r = 0#8 := by
  simp [State.readV]

theorem State.readByte_resetWith_font (c : Config) (d : Nat) {a : Nat} (h : a < 80) :
    (State.resetWith c d).readByte a = c.font[a] := dif_pos h

/-- Settles O54: the reset state's own values, and its memory by the unlisted contents. -/
theorem resetGivesResetValues : Obligations.ResetGivesResetValues := fun s =>
  ⟨hostReset s, rfl, State.readV_resetWith s.cfg s.draws, rfl, rfl, by simp [hostReset], rfl, rfl, rfl,
    fun _ font => State.readByte_resetWith_font s.cfg s.draws font,
    fun _ pastFont _ => State.readByte_resetWith_of_ge s.cfg s.draws pastFont,
    pixel_blankDisplay _ _, blankDisplay_sized _ _, by simp [State.keyDown, hostReset], rfl, rfl, rfl, rfl⟩

/-- Settles O55: below `0x200` a load leaves the reset contents, and from there on the ROM and zeros. -/
theorem memoryMapAfterResetAndLoad : Obligations.MemoryMapAfterResetAndLoad := by
  intro s bytes fits
  have below {a : Nat} (h : a < 0x200) := readByte_hostLoad_below s fits h
  have font {a : Nat} (h : a < 80) : (hostReset s).readByte a = s.cfg.font[a] :=
    State.readByte_resetWith_font s.cfg s.draws h
  have zero {a : Nat} (h : 80 ≤ a) : (hostReset s).readByte a = 0#8 :=
    State.readByte_resetWith_of_ge s.cfg s.draws h
  refine ⟨hostReset s, hostLoad bytes s, rfl, rfl, rfl, hostLoad_pc s fits, fun a h => ?_, fun a h h' => ?_,
    fun a h _ => ?_⟩
  · exact ⟨font h, (below (by omega)).trans (font h)⟩
  · exact ⟨zero h, (below h').trans (zero h)⟩
  · exact ⟨zero (by omega), readByte_hostLoad_program s fits h⟩

section
variable (s : State) {bytes : List Byte} (long : ¬bytes.length ≤ maxRom)
include long

theorem hostReply_load_of_long : hostReply (.load bytes) s = .loadError := if_neg long

theorem hostLoad_of_long : hostLoad bytes s = hostReset s := if_neg long

end

/-- Settles O57: a ROM that is too long leaves the reset state, as the empty ROM does. -/
theorem loadErrorLeavesResetState : Obligations.LoadErrorLeavesResetState := by
  intro s bytes h
  have long : ¬bytes.length ≤ maxRom := Nat.not_le.2 h
  have same : hostStep (.load bytes) s = hostStep .reset s := congrArg _ (hostLoad_of_long s long)
  exact ⟨hostReply_load_of_long s long, same, _, same, rfl, rfl, cycleResult_hostLoad_nil s⟩

theorem keyDown_hostSetKey (s : State) (k j : Nibble) (b : Bool) :
    (hostSetKey k b s).keyDown j = if j = k then b else s.keyDown j := by
  simp only [State.keyDown, hostSetKey_key, Vector.getElem_set, BitVec.toNat_inj]
  by_cases h : k = j
  · simp [h]
  · simp [h, Ne.symm h]

/-- Settles O58: `set_key` is one write of the key state, and the other operations are as defined. -/
theorem hostOperationsTouchOnlyTheirOwn : Obligations.HostOperationsTouchOnlyTheirOwn := fun s k b =>
  ⟨⟨_, rfl, by simp [keyDown_hostSetKey], fun j hj => by simp [keyDown_hostSetKey, hj], rfl⟩,
    ⟨_, rfl, rfl, rfl⟩, rfl, rfl, rfl, rfl, rfl, rfl⟩

theorem cycleResult_reports_iff (s : State) :
    (∃ w a, cycleResult s = .unknownOpcode w a) ↔
      s.running ∧ ∃ w, s.fetch = some w ∧ decodeWord w = .unknown w := by
  constructor
  · rintro ⟨w, a, hr⟩
    cases cycleKind s with
    | unknown running w' hf hd => exact ⟨running, w', hf, hd⟩
    | halted latched => cases (cycleResult_halted latched).symm.trans hr
    | fetchFault running hf => cases (cycleResult_fetchFault running hf).symm.trans hr
    | faults running i hi c hc => cases (cycleResult_faults running hi hc).symm.trans hr
    | completes running i hi hc =>
      rw [cycleResult_completes running hi hc] at hr
      split at hr <;> cases hr
  · rintro ⟨running, w, hf, hd⟩
    exact ⟨w, s.pc, cycleResult_unknown running hf hd⟩

/-- A cycle's codes are 1 to 6 (60_exceptions.md R202, R211). -/
theorem CycleResult.code_range {r : CycleResult} {k : Nat} (h : r.code = some k) : 1 ≤ k ∧ k ≤ 6 := by
  cases r with
  | fault c =>
    obtain rfl := Option.some.inj h
    have := c.code_range
    omega
  | unknownOpcode w a =>
    obtain rfl := Option.some.inj h
    omega
  | ok | stalled | halted => cases h

theorem hostReply_load_code (bytes : List Byte) (s : State) :
    (hostReply (.load bytes) s).code = if 3584 < bytes.length then some 7 else none := by
  by_cases long : 3584 < bytes.length
  · rw [hostReply_load_of_long s (Nat.not_le.2 long), if_pos long]
    rfl
  · rw [hostReply_load_of_fits s (Nat.not_lt.1 long), if_neg long]
    rfl

/-- Settles O59: only a cycle and a load return a code, a cycle its result's and a load 7 or none. -/
theorem exceptionalOutcomesHaveTheirCodes : Obligations.ExceptionalOutcomesHaveTheirCodes := by
  intro m s
  cases m with
  | cycle =>
    have code : (hostReply .cycle s).code = (cycleResult s).code := rfl
    rw [code]
    refine ⟨?_, ?_, fun c => ?_, fun k hk => ?_, rfl⟩
    · rw [CycleResult.code_eq_six, cycleResult_reports_iff]
      simp
    · exact ⟨fun h => absurd (CycleResult.code_range h).2 (by decide), nofun⟩
    · rw [CycleResult.code_eq_cause]
      simp
    · have := CycleResult.code_range hk
      omega
  | load bytes =>
    rw [hostReply_load_code]
    refine ⟨?_, ?_, fun c => ?_, fun k hk => ?_, rfl⟩
    · split <;> simp
    · split <;> simp_all
    · have := c.code_range
      split <;> simp
      omega
    · split at hk
      · cases hk
        decide
      · cases hk
  | reset | setKey | readFrame | ackFrame | observe => simp [hostReply, HostReply.code, FaultCause.code]

end Sys2Proof.Machine
end

section
/-! PROOF. Jump with offset, register skips, call and return (41_control_flow.md R111, R113, R116 to R118). -/

namespace Sys2Proof.Machine

/-- Settles O19: the word is an encoding, and the effect is one write of `pc`. -/
theorem jumpWithOffsetAddsV0 : Obligations.JumpWithOffsetAddsV0 := fun nnn s =>
  ⟨decodeWord_encode (.jpV0 nnn), _, exec_of_no_fault rfl, s.toNat_offsetTarget nnn, rfl⟩

section
variable (x y n : Nibble)

theorem decodeWord_group5 :
    decodeWord (formatXYN 0x5#4 x y n) =
      if n = 0#4 then .instr (.seReg x y) else .unknown (formatXYN 0x5#4 x y n) := by
  simp [decodeWord]

theorem decodeWord_group9 :
    decodeWord (formatXYN 0x9#4 x y n) =
      if n = 0#4 then .instr (.sneReg x y) else .unknown (formatXYN 0x9#4 x y n) := by
  simp [decodeWord]

end

/-- Settles O21: the last digit decides in both groups, and both instructions end in the skip. -/
theorem registerSkips : Obligations.RegisterSkips := by
  refine fun x y n s => ⟨decodeWord_group5 x y n, decodeWord_group9 x y n,
    ⟨_, exec_of_no_fault rfl, s.skipIf_skips _⟩, ⟨_, exec_of_no_fault rfl, s.skipIf_skips _⟩,
    fun t ht => ?_⟩
  obtain rfl := eq_of_next ht (exec_of_no_fault rfl)
  simp [effect, skipIf_eq]

section
variable (nnn : Addr) {s : State}

theorem faultOf_call_of_full (full : s.sp.val = 16) : faultOf (.call nnn) s = some .stackOverflow :=
  if_pos full

theorem faultOf_ret_of_empty (empty : s.sp.val = 0) : faultOf .ret s = some .stackUnderflow := if_pos empty

end

/-- Settles O22: a push of `pc` and a jump while a slot is free, else the stack overflow. -/
theorem callPushesReturnAddress : Obligations.CallPushesReturnAddress := by
  refine fun nnn s => ⟨
    fun room => ⟨_, exec_call_of_room nnn s room, toNat_addrImm nnn, rfl, ?_, ?_, rfl⟩,
    fun full => ⟨_, exec_of_fault (faultOf_call_of_full nnn full), s.raiseFault_latches _ _⟩⟩
  · simp
  · intro k hk
    simp [Ne.symm hk]

/-- Settles O23: a pop and a jump past the popped address while one is held, else the stack underflow. -/
theorem returnPopsReturnAddress : Obligations.ReturnPopsReturnAddress := fun s =>
  ⟨fun held => ⟨_, exec_ret_of_held s held, rfl, rfl, rfl⟩,
    fun empty => ⟨_, exec_of_fault (faultOf_ret_of_empty empty), s.raiseFault_latches _ _⟩⟩

/-- Settles O24: the slot the return reads is the one the call has written. -/
theorem returnComesBackAfterCall : Obligations.ReturnComesBackAfterCall := by
  refine fun nnn s room => ⟨_, exec_call_of_room nnn s room, fun u hstack hsp => ?_⟩
  have sp : u.sp.val = s.sp.val + 1 := congrArg Fin.val hsp
  have held : 0 < u.sp.val := by omega
  refine ⟨_, exec_ret_of_held u held, ?_, ?_⟩
  · have top : u.top held = s.pc := by simp [State.top, hstack, sp]
    rw [State.writePc_pc, top]
  · exact Fin.ext (by simp [sp])

end Sys2Proof.Machine
end

section
/-! PROOF. The five flag writers and the draw (42_alu.md R137 to R142), and the index sum
(43_index_memory.md R152): a flag write, then the result from the operands read after it (the spec's decision
D3). -/

namespace Sys2Proof.Machine

theorem toNat_flagByte (f : Bool) : (flagByte f).toNat = if f then 1 else 0 := by
  cases f <;> rfl

/-- After a flag write register 15 reads as the flag and the others as before. -/
theorem State.toNat_readV_writeVF (s : State) (f : Bool) (r : Nibble) :
    ((s.writeVF f).readV r).toNat = if r = 0xF#4 then (flagByte f).toNat else (s.readV r).toNat := by
  rw [s.readV_writeVF, apply_ite BitVec.toNat]

theorem toNat_sub_byte (a b : Byte) : (a - b).toNat = (256 + a.toNat - b.toNat) % 256 := by
  rw [BitVec.toNat_sub]
  have := b.isLt
  congr 1
  omega

/-- Settles O28: the carry is written to `VF`, then the sum of the entry values to `V[x]`. -/
theorem addSetsCarry : Obligations.AddSetsCarry := fun x y s =>
  ⟨decodeWord_encode (.addReg x y), _, _, _, exec_addReg x y s, s.writeVF_writeV_writesFlagged _ x _,
    toNat_addByte _ _, by simp [toNat_flagByte, carryOut]⟩

/-- Settles O29: the no-borrow flag is written to `VF`, then the difference of the operands read after it. -/
theorem subtractSetsNoBorrow : Obligations.SubtractSetsNoBorrow := fun x y s =>
  ⟨decodeWord_encode (.subReg x y), decodeWord_encode (.subnReg x y),
    ⟨_, _, _, exec_subReg x y s, s.writeVF_writeV_writesFlagged _ x _, by simp [toNat_flagByte, noBorrow],
      by rw [toNat_sub_byte, s.toNat_readV_writeVF, s.toNat_readV_writeVF]⟩,
    ⟨_, _, _, exec_subnReg x y s, s.writeVF_writeV_writesFlagged _ x _, by simp [toNat_flagByte, noBorrow],
      by rw [toNat_sub_byte, s.toNat_readV_writeVF, s.toNat_readV_writeVF]⟩⟩

theorem toNat_shrOut (a : Byte) : (flagByte (shrOut a)).toNat = a.toNat % 2 := by
  have bit : shrOut a = decide (a.toNat % 2 = 1) := Nat.testBit_zero _
  rw [toNat_flagByte, bit]
  rcases Nat.mod_two_eq_zero_or_one a.toNat with h | h
  · simp [h]
  · simp [h]

theorem toNat_shlOut (a : Byte) : (flagByte (shlOut a)).toNat = a.toNat / 128 := by
  have bit : shlOut a = decide (a.toNat / 2 ^ 7 % 2 = 1) := Nat.testBit_eq_decide_div_mod_eq
  have isBit : a.toNat / 128 = 0 ∨ a.toNat / 128 = 1 := by
    have := a.isLt
    omega
  rw [toNat_flagByte, bit]
  rcases isBit with h | h
  · simp [h]
  · simp [h]

/-- Settles O30: the bit shifted out is written to `VF`, then the shift of the register read after it. -/
theorem shiftsMoveOneBit : Obligations.ShiftsMoveOneBit := fun x y s =>
  ⟨decodeWord_encode (.shr x y), decodeWord_encode (.shl x y),
    ⟨_, _, _, exec_shr x y s, s.writeVF_writeV_writesFlagged _ x _, toNat_shrOut _, by
      rw [BitVec.toNat_ushiftRight, s.toNat_readV_writeVF, Nat.shiftRight_one]⟩,
    ⟨_, _, _, exec_shl x y s, s.writeVF_writeV_writesFlagged _ x _, toNat_shlOut _, by
      rw [BitVec.toNat_shiftLeft, s.toNat_readV_writeVF, Nat.shiftLeft_eq, Nat.mul_comm]⟩⟩

/-- Settles O32: one register write of the masked draw, after the draw is counted. -/
theorem randomIsMaskedDraw : Obligations.RandomIsMaskedDraw := by
  intro x kk s
  have write := s.writeV_advance_writesOne x (s.drawn &&& kk)
  have value : ((s.nextDraw.writeV x (s.drawn &&& kk)).advance 2).readV x = s.drawn &&& kk := by simp
  refine ⟨decodeWord_encode (.rnd x kk), _, exec_rnd x kk s, rfl, ?_, ?_, ?_, write⟩
  · rw [value, BitVec.and_assoc, BitVec.and_not_self]
    exact BitVec.and_zero
  · rintro rfl
    rw [value]
    exact BitVec.and_zero
  · rintro rfl
    rw [value]
    exact BitVec.and_allOnes

theorem exec_addI (x : Nibble) (s : State) :
    exec (.addI x) s = .next (((s.writeVF (indexPassed s.I (s.readV x))).writeI
      (addIndex s.I ((s.writeVF (indexPassed s.I (s.readV x))).readV x))).advance 2) := rfl

/-- Settles O34: the flag of the untruncated sum, then the sum with the register read after it. -/
theorem addToIndexSetsFlag : Obligations.AddToIndexSetsFlag := by
  refine fun x s => ⟨decodeWord_encode (.addI x), _, exec_addI x s, ?_, fun r hr => ?_, ?_, rfl, rfl⟩
  · simp [State.readV_writeVF, toNat_flagByte, indexPassed]
  · simp [State.readV_writeVF, hr]
  · simp [State.readV_writeVF, addIndex, apply_ite BitVec.toNat]

end Sys2Proof.Machine
end

section
/-! PROOF. The stores and loads at `I` (43_index_memory.md R154 to R156; 20_memory.md R56). -/

namespace Sys2Proof.Machine

section
variable (s : State)

/-- Loading registers changes no field but `V`. -/
theorem State.writeRegs_withV (r : Nat) (bs : List Byte) (V : Vector Byte 16) :
    { s.writeRegs r bs with V := V } = { s with V := V } := by
  induction bs generalizing s r with
  | nil => rfl
  | cons b bs ih => exact ih (s.writeV (BitVec.ofNat 4 r) b) (r + 1)

end

theorem toNat_ofNat_byte {k : Nat} (h : k < 256) : (BitVec.ofNat 8 k).toNat = k :=
  Nat.mod_eq_of_lt h

section
variable {s : State} (fits : s.I.toNat + 2 ≤ 0xFFF) (v : Byte)
include fits

/-- The three digits that `Fx33` stores (R154). -/
theorem State.readByte_storeDigits (k : Fin 3) :
    (s.storeBytes s.base (bcdDigits v)).readByte (s.I.toNat + k.val) = (bcdDigits v)[k.val]'k.isLt := by
  have inRun : s.base ≤ s.I.toNat + k.val ∧ s.I.toNat + k.val < s.base + (bcdDigits v).length := by
    simp [State.base, bcdDigits]
  rw [s.readByte_storeBytes _ _ _ (by simp [State.base, bcdDigits]; omega), dif_pos inRun]
  simp only [State.base, Nat.add_sub_cancel_left]
  rfl

theorem State.readByte_storeDigits_outside {a : Nat} (outside : a < s.I.toNat ∨ s.I.toNat + 2 < a) :
    (s.storeBytes s.base (bcdDigits v)).readByte a = s.readByte a := by
  rw [s.readByte_storeBytes _ _ _ (by simp [State.base, bcdDigits]; omega), dif_neg]
  simp [State.base, bcdDigits]
  omega

end

/-- Settles O35: three bytes stored at `I` when the range fits, else the fault. -/
theorem bcdStoresDigits : Obligations.BcdStoresDigits := by
  refine fun x s => ⟨decodeWord_encode (.ldB x), fun fits => ?_, fun above =>
    ⟨_, exec_of_fault (if_pos above), s.raiseFault_latches _ _⟩⟩
  have digit (k : Fin 3) := congrArg BitVec.toNat (State.readByte_storeDigits fits (s.readV x) k)
  have := (s.readV x).isLt
  exact ⟨_, exec_of_no_fault (if_neg (Nat.not_lt.2 fits)),
    (digit 0).trans (toNat_ofNat_byte (by omega)), (digit 1).trans (toNat_ofNat_byte (by omega)),
    (digit 2).trans (toNat_ofNat_byte (by omega)),
    fun a outside => State.readByte_storeDigits_outside fits _ outside, by simp [effect],
    congrArg (fun t : State => { t with pc := s.pc }) (s.storeBytes_withMem _ _ s.mem)⟩

section
variable {x : Nibble} {s : State} (fits : s.I.toNat + x.toNat ≤ 0xFFF)
include fits

theorem faultOf_storeRegs_of_fits : faultOf (.storeRegs x) s = none := if_neg (Nat.not_lt.2 fits)

theorem faultOf_loadRegs_of_fits : faultOf (.loadRegs x) s = none := if_neg (Nat.not_lt.2 fits)

/-- The index past the block does not wrap. -/
theorem State.toNat_indexPastBlock : (s.indexPastBlock x).toNat = s.I.toNat + x.toNat + 1 := by
  rw [State.indexPastBlock, BitVec.toNat_ofNat]
  simp only [State.base, blockSize]
  omega

/-- The block that `Fx55` stores, byte by byte. -/
theorem State.readByte_storeBlock (a : Nat) :
    (s.storeBytes s.base (s.readRegs (blockSize x))).readByte a =
      if s.I.toNat ≤ a ∧ a ≤ s.I.toNat + x.toNat then s.readV (BitVec.ofNat 4 (a - s.I.toNat))
      else s.readByte a := by
  rw [s.readByte_storeBytes _ _ _ (by simp [State.base, blockSize]; omega)]
  simp [State.base, blockSize, ← Nat.add_assoc]

theorem State.readByte_storeBlock_register {r : Nibble} (hr : r.toNat ≤ x.toNat) :
    (s.storeBytes s.base (s.readRegs (blockSize x))).readByte (s.I.toNat + r.toNat) = s.readV r := by
  rw [State.readByte_storeBlock fits, if_pos (by omega)]
  simp

end

/-- Settles O36: the block stored at `I` and the index past it when the range fits, else the fault. -/
theorem blockStoreWritesRegisters : Obligations.BlockStoreWritesRegisters := by
  refine fun x s => ⟨decodeWord_encode (.storeRegs x), fun fits => ?_, fun above => ?_⟩
  · refine ⟨_, exec_of_no_fault (faultOf_storeRegs_of_fits fits),
      fun r hr => State.readByte_storeBlock_register fits hr, fun a outside => ?_,
      State.toNat_indexPastBlock fits, by simp [effect],
      congrArg (fun t : State => { t with I := s.I, pc := s.pc }) (s.storeBytes_withMem _ _ s.mem)⟩
    exact (State.readByte_storeBlock fits a).trans (if_neg (by omega))
  · exact ⟨_, exec_of_fault (if_pos above), s.raiseFault_latches _ _⟩

/-- Settles O37: the block loaded from `I` and the index past it when the range fits, else the fault. -/
theorem blockLoadReadsRegisters : Obligations.BlockLoadReadsRegisters := by
  refine fun x s => ⟨decodeWord_encode (.loadRegs x), fun fits => ?_, fun above => ?_⟩
  · exact ⟨_, exec_of_no_fault (faultOf_loadRegs_of_fits fits),
      fun r hr => (s.readV_loadBlock r x).trans (if_pos hr),
      fun r hr => (s.readV_loadBlock r x).trans (if_neg (Nat.not_le.2 hr)),
      State.toNat_indexPastBlock fits, by simp [effect],
      congrArg (fun t : State => { t with I := s.I, pc := s.pc }) (s.writeRegs_withV _ _ s.V)⟩
  · exact ⟨_, exec_of_fault (if_pos above), s.raiseFault_latches _ _⟩

/-- Settles O38: the block load reads at `I + r` what the block store has put there, `V[r]`. -/
theorem blockStoreThenLoadRoundTrips : Obligations.BlockStoreThenLoadRoundTrips := by
  refine fun x s fits => ⟨_, exec_of_no_fault (faultOf_storeRegs_of_fits fits), fun V => ?_⟩
  refine ⟨_, exec_of_no_fault (faultOf_loadRegs_of_fits fits), rfl, ?_, fun r hr => ?_⟩
  · simp [effect]
  · refine (State.readV_loadBlock _ r x).trans ((if_pos hr).trans ?_)
    exact State.readByte_storeBlock_register fits hr

end Sys2Proof.Machine
end

section
/-! PROOF. A canonical memory is determined by what it reads as (20_memory.md R51; log entry 11). -/

namespace Sys2Proof.Machine

section
variable {font : Vector Byte 80} {c : Host.Cell} {m m' : List Host.Cell}

theorem Memory.read_of_above {a : Nat} (above : ∀ d ∈ m, a < d.1) :
    Memory.read font m a = Memory.unlisted font a := by
  induction m with
  | nil => rfl
  | cons d m ih =>
    obtain ⟨hd, hm⟩ := List.forall_mem_cons.1 above
    rw [Memory.read, if_neg (by omega), ih hm]

theorem Memory.read_head : Memory.read font (c :: m) c.1 = c.2 := if_pos rfl

theorem Memory.wf_tail (h : Memory.wf font (c :: m)) : Memory.wf font m :=
  ⟨(List.pairwise_cons.1 h.1).2, fun d hd => h.2 d (List.mem_cons_of_mem c hd)⟩

theorem Memory.above_of_wf (h : Memory.wf font (c :: m)) : ∀ d ∈ m, c.1 < d.1 :=
  (List.pairwise_cons.1 h.1).1

/-- A first entry differs from the reset contents, so a memory listed above it does not read alike. -/
theorem Memory.not_above_of_read_eq (h : Memory.wf font (c :: m))
    (reads : ∀ a < 4096, Memory.read font (c :: m) a = Memory.read font m' a) :
    ¬∀ d ∈ m', c.1 < d.1 := by
  intro above
  obtain ⟨inRange, listed⟩ := h.2 c List.mem_cons_self
  have same := reads c.1 inRange
  rw [Memory.read_head, Memory.read_of_above above] at same
  exact listed same

/-- With equal first entries the rest reads alike. -/
theorem Memory.read_tail_eq (h : Memory.wf font (c :: m)) (h' : Memory.wf font (c :: m')) {a : Nat}
    (read : Memory.read font (c :: m) a = Memory.read font (c :: m') a) :
    Memory.read font m a = Memory.read font m' a := by
  by_cases ha : c.1 = a
  · subst ha
    rw [Memory.read_of_above (Memory.above_of_wf h), Memory.read_of_above (Memory.above_of_wf h')]
  · simpa only [Memory.read, if_neg ha] using read

end

/-- Settles O52, by induction on both lists: neither first entry lies below the other, so the two
are equal. -/
theorem canonicalMemoryIsDetermined : Obligations.CanonicalMemoryIsDetermined := by
  intro font m
  induction m with
  | nil =>
    intro m' _ h' reads
    cases m' with
    | nil => rfl
    | cons c' m' => exact absurd nofun (Memory.not_above_of_read_eq h' fun a ha => (reads a ha).symm)
  | cons c m ih =>
    intro m' h h' reads
    cases m' with
    | nil => exact absurd nofun (Memory.not_above_of_read_eq h reads)
    | cons c' m' =>
      have notBelow : ¬c.1 < c'.1 := fun below => Memory.not_above_of_read_eq h reads <|
        List.forall_mem_cons.2 ⟨below, fun d hd => below.trans (Memory.above_of_wf h' d hd)⟩
      have notAbove : ¬c'.1 < c.1 := fun below =>
        Memory.not_above_of_read_eq h' (fun a ha => (reads a ha).symm) <| List.forall_mem_cons.2
          ⟨below, fun d hd => below.trans (Memory.above_of_wf h d hd)⟩
      have sameAddr : c.1 = c'.1 := by omega
      have sameByte : c.2 = c'.2 := by
        have := reads c.1 (h.2 c List.mem_cons_self).1
        rwa [Memory.read_head, sameAddr, Memory.read_head] at this
      obtain rfl : c = c' := Prod.ext sameAddr sameByte
      rw [ih m' (Memory.wf_tail h) (Memory.wf_tail h') fun a ha => Memory.read_tail_eq h h' (reads a ha)]

end Sys2Proof.Machine
end

section
/-! PROOF. The key skips, the await of a key, and a timer read back (45_keys_timers.md R186 to R190). -/

namespace Sys2Proof.Machine

/-- Settles O43: a skip on the key that the register names when it names one, else the fault. -/
theorem keySkips : Obligations.KeySkips := by
  refine fun x s => ⟨decodeWord_encode (.skp x), decodeWord_encode (.sknp x), fun k hk => ?_,
    fun above => ?_⟩
  · have inRange : ¬15 < (s.readV x).toNat := by
      have := k.isLt
      omega
    have operand : s.keyOperand x = k := by
      apply BitVec.eq_of_toNat_eq
      rw [State.keyOperand, BitVec.toNat_setWidth, hk, Nat.mod_eq_of_lt k.isLt]
    have down := s.skipIf_skips (s.keyDown k = true)
    have up := s.skipIf_skips (s.keyDown k = false)
    rw [← operand] at down up ⊢
    refine ⟨⟨_, exec_of_no_fault (if_neg inRange), ?_⟩, ⟨_, exec_of_no_fault (if_neg inRange), ?_⟩⟩
    · simpa [effect] using down
    · simpa [effect] using up
  · exact ⟨⟨_, exec_of_fault (if_pos above), s.raiseFault_latches _ _⟩,
      ⟨_, exec_of_fault (if_pos above), s.raiseFault_latches _ _⟩⟩

/-- The keys before `k` in the list are the lower ones. -/
theorem allKeys_eq_append : ∀ k : Nibble, ∃ lower higher, allKeys = lower ++ k :: higher ∧
    ∀ j ∈ lower, j.toNat < k.toNat := by
  intro k
  refine ⟨allKeys.take k.toNat, allKeys.drop (k.toNat + 1), ?_⟩
  revert k
  decide

theorem State.lowestKey_eq_some {s : State} {k : Nibble} (down : s.keyDown k = true)
    (lowest : ∀ j : Nibble, j.toNat < k.toNat → s.keyDown j = false) : s.lowestKey = some k := by
  obtain ⟨lower, higher, parts, below⟩ := allKeys_eq_append k
  refine List.find?_eq_some_iff_append.2 ⟨down, lower, higher, parts, fun j hj => ?_⟩
  simp [lowest j (below j hj)]

/-- Settles O44: one register write of the lowest key that is down, or nothing. -/
theorem awaitKeyTakesLowestOrStalls : Obligations.AwaitKeyTakesLowestOrStalls := fun x s =>
  ⟨decodeWord_encode (.ldVxK x),
    fun _ down lowest => ⟨_, _, exec_ldVxK_of_key x s (State.lowestKey_eq_some down lowest),
      s.writeV_advance_writesOne x _, BitVec.toNat_setWidth_of_le (by decide)⟩,
    fun up => exec_ldVxK_of_no_key x s (s.lowestKey_eq_none_iff.2 up)⟩

/-- Settles O47: the tick of the writing cycle comes before the read. -/
theorem timerReadsBackOneLess : Obligations.TimerReadsBackOneLess := by
  refine fun x y s running => ⟨_, finishCycle_exec (exec_ldDTVx x s) running, _, exec_ldVxDT y _, ?_⟩
  rw [State.readV_advance, State.readV_writeV_same]
  exact toNat_tickDown _

end Sys2Proof.Machine
end

section
/-! PROOF. Plotting a sprite said of the places instead of the loop (44_display.md R170, R172, R173): a
drawing toggles a set of places of the display and reports whether one of them was on. -/

namespace Sys2Proof.Machine

/-- From `d` to `e` exactly the places of the display in `P` are toggled, and a collision is found when one of
them was on. -/
structure Grid.Draws (w h : Nat) (P : Nat → Nat → Prop) (d e : List (List Bool) × Bool) : Prop where
  sized : Grid.sized w h e.1
  pixel : ∀ r c, r < h → c < w → (Grid.pixel e.1 r c ≠ Grid.pixel d.1 r c ↔ P r c)
  collision : e.2 = true ↔ d.2 = true ∨ ∃ r c, (r < h ∧ c < w) ∧ P r c ∧ Grid.pixel d.1 r c = true

section
variable {w h : Nat} {P Q : Nat → Nat → Prop} {d e f : List (List Bool) × Bool}

theorem Grid.Draws.congr (hd : Grid.Draws w h P d e)
    (same : ∀ r c, r < h → c < w → (P r c ↔ Q r c)) : Grid.Draws w h Q d e where
  sized := hd.sized
  pixel r c hr hc := (hd.pixel r c hr hc).trans (same r c hr hc)
  collision := by
    refine hd.collision.trans (or_congr_right (exists_congr fun r => exists_congr fun c => ?_))
    exact and_congr_right fun ⟨hr, hc⟩ => and_congr_left' (same r c hr hc)

theorem Grid.draws_nothing (hd : Grid.sized w h d.1) : Grid.Draws w h (fun _ _ => False) d d where
  sized := hd
  pixel := by simp
  collision := by simp

/-- Two drawings on disjoint places are one on both: each place is toggled once, so what the second finds on
was on before the first. -/
theorem Grid.Draws.trans (hde : Grid.Draws w h P d e) (hef : Grid.Draws w h Q e f)
    (disjoint : ∀ r c, P r c → ¬Q r c) : Grid.Draws w h (fun r c => P r c ∨ Q r c) d f where
  sized := hef.sized
  pixel r c hr hc := by
    have first := hde.pixel r c hr hc
    have second := hef.pixel r c hr hc
    have once := disjoint r c
    by_cases hP : P r c
    · have := first.2 hP
      have := not_not.1 (mt second.1 (once hP))
      simp_all
    · have := not_not.1 (mt first.1 hP)
      simp_all
  collision := by
    have before (r c : Nat) (hr : r < h) (hc : c < w) (hQ : Q r c) :
        Grid.pixel e.1 r c = Grid.pixel d.1 r c :=
      not_not.1 (mt (hde.pixel r c hr hc).1 fun hP => disjoint r c hP hQ)
    rw [hef.collision, hde.collision]
    constructor
    · rintro ((found | ⟨r, c, on, hP, lit⟩) | ⟨r, c, on, hQ, lit⟩)
      · exact .inl found
      · exact .inr ⟨r, c, on, .inl hP, lit⟩
      · exact .inr ⟨r, c, on, .inr hQ, before r c on.1 on.2 hQ ▸ lit⟩
    · rintro (found | ⟨r, c, on, hP | hQ, lit⟩)
      · exact .inl (.inl found)
      · exact .inl (.inr ⟨r, c, on, hP, lit⟩)
      · exact .inr ⟨r, c, on, hQ, (before r c on.1 on.2 hQ).trans lit⟩

/-- A place off the display is clipped (R173). -/
theorem Grid.plotPixel_draws (px py : Nat) (hd : Grid.sized w h d.1) :
    Grid.Draws w h (fun r c => r = py ∧ c = px) d (Grid.plotPixel w h px py d) := by
  unfold Grid.plotPixel
  split
  case isTrue on =>
    refine ⟨Grid.toggle_sized _ _ hd, fun r c _ _ => ?_, ?_⟩
    · rw [Grid.pixel_toggle hd on.2 on.1]
      by_cases here : r = py ∧ c = px
      · obtain ⟨rfl, rfl⟩ := here
        simp
      · simp [here]
    · rw [Bool.or_eq_true]
      refine or_congr_right ⟨fun lit => ⟨py, px, on.symm, ⟨rfl, rfl⟩, lit⟩, ?_⟩
      rintro ⟨r, c, -, ⟨rfl, rfl⟩, lit⟩
      exact lit
  case isFalse off =>
    refine (Grid.draws_nothing hd).congr fun r c hr hc => ⟨False.elim, ?_⟩
    rintro ⟨rfl, rfl⟩
    exact off ⟨hc, hr⟩

/-- One sprite row, from column `c` on, `k` columns of it (R172). -/
theorem Grid.plotColumns_draws (x0 py : Nat) (b : Byte) (k c : Nat) (hd : Grid.sized w h d.1) :
    Grid.Draws w h
      (fun r c' => r = py ∧ x0 + c ≤ c' ∧ c' < x0 + c + k ∧ Grid.spriteBit b (c' - x0) = true) d
      (Grid.plotColumns w h x0 py b k c d) := by
  induction k generalizing c d with
  | zero => exact (Grid.draws_nothing hd).congr fun r c' _ _ =>
      ⟨False.elim, fun ⟨_, from', upto, _⟩ => by omega⟩
  | succ k ih =>
    have column : Grid.Draws w h (fun r c' => (r = py ∧ c' = x0 + c) ∧ Grid.spriteBit b c = true) d
        (if Grid.spriteBit b c then Grid.plotPixel w h (x0 + c) py d else d) := by
      split
      case isTrue bit => exact (Grid.plotPixel_draws _ _ hd).congr fun r c' _ _ => by simp [bit]
      case isFalse bit => exact (Grid.draws_nothing hd).congr fun r c' _ _ => by simp [bit]
    refine (column.trans (ih (c + 1) column.sized) fun r c' => by omega).congr fun r c' _ _ => ?_
    by_cases here : c' = x0 + c
    · subst here
      simp
    · constructor
      · rintro (⟨⟨-, rfl⟩, -⟩ | ⟨hr, from', upto, bit⟩)
        · exact absurd rfl here
        · exact ⟨hr, by omega, by omega, bit⟩
      · rintro ⟨hr, from', upto, bit⟩
        exact .inr ⟨hr, by omega, by omega, bit⟩

/-- The rows of a sprite from display row `py` on (R172). -/
theorem Grid.plotRows_draws (x0 py : Nat) (rows : List Byte) (hd : Grid.sized w h d.1) :
    Grid.Draws w h
      (fun r c => (py ≤ r ∧ r < py + rows.length) ∧ (x0 ≤ c ∧ c < x0 + 8) ∧
        Grid.spriteBit ((rows[r - py]?).getD 0) (c - x0) = true) d
      (Grid.plotRows w h x0 py rows d) := by
  induction rows generalizing py d with
  | nil => exact (Grid.draws_nothing hd).congr fun r c _ _ => by simp
  | cons b rows ih =>
    have row := Grid.plotColumns_draws x0 py b 8 0 hd
    refine (row.trans (ih (py + 1) row.sized) fun r c => by omega).congr fun r c _ _ => ?_
    by_cases here : r = py
    · subst here
      simp [and_assoc]
    · have range : (py + 1 ≤ r ∧ r < py + 1 + rows.length) ↔
          (py ≤ r ∧ r < py + (b :: rows).length) := by
        rw [List.length_cons]
        omega
      rw [or_iff_right fun h => here h.1, range]
      refine and_congr_right fun inRows => ?_
      have index : r - py = (r - (py + 1)) + 1 := by omega
      rw [index, List.getElem?_cons_succ]

end

/-- The drawing of `Dxyn` is the one on the places under the sprite's set bits (R170, R172). -/
theorem State.drawSprite_draws (x y n : Nibble) (s : State) (h : s.displaySized) :
    Grid.Draws s.cfg.dispW s.cfg.dispH (s.spriteOn x y n) (s.disp, false) (s.drawSprite x y n) := by
  refine (Grid.plotRows_draws (d := (s.disp, false)) _ _ _ h).congr fun r c _ _ => ?_
  rw [readBytes_length, State.spriteOn, and_assoc, and_assoc]
  refine and_congr_right fun from' => and_congr_right fun upto => ?_
  have inSprite : r - s.startRow y < n.toNat := by omega
  rw [List.getElem?_eq_getElem (by simpa using inSprite), readBytes_getElem]
  rfl

/-- Two grids of one size with the same pixels are equal. -/
theorem Grid.eq_of_pixel {w h : Nat} {g g' : List (List Bool)} (hg : Grid.sized w h g)
    (hg' : Grid.sized w h g') (same : ∀ r c, r < h → c < w → Grid.pixel g r c = Grid.pixel g' r c) :
    g = g' := by
  obtain ⟨height, width⟩ := hg
  obtain ⟨height', width'⟩ := hg'
  refine List.ext_getElem (height.trans height'.symm) fun r hr hr' => ?_
  have hw := width _ (List.getElem_mem hr)
  have hw' := width' _ (List.getElem_mem hr')
  refine List.ext_getElem (hw.trans hw'.symm) fun c hc hc' => ?_
  have := same r c (height ▸ hr) (hw ▸ hc)
  simpa [Grid.pixel, hr, hr', hc, hc'] using this

end Sys2Proof.Machine
end

section
/-! PROOF. `Dxyn` (44_display.md R172 to R174, corner case g): one drawing, and the same drawing twice. -/

namespace Sys2Proof.Machine

theorem flagByte_eq_one_iff (f : Bool) : flagByte f = 1#8 ↔ f = true := by
  cases f <;> decide

/-- A pixel that changes twice or not at all is as at first. -/
theorem eq_of_toggled_twice {p : Prop} {a b c : Bool} (first : b ≠ a ↔ p) (second : c ≠ b ↔ p) :
    c = a := by
  by_cases hp : p
  · rw [Bool.eq_not.2 (second.2 hp), Bool.eq_not.2 (first.2 hp), Bool.not_not]
  · rw [not_not.1 (mt second.1 hp), not_not.1 (mt first.1 hp)]

section
variable (x y n : Nibble) {s : State}

theorem faultOf_drw_of_fits (fits : n = 0#4 ∨ s.I.toNat + n.toNat - 1 ≤ 0xFFF) :
    faultOf (.drw x y n) s = none := by
  refine if_neg fun ⟨rows, above⟩ => ?_
  rcases fits with rfl | fits
  · cases rows
  · omega

theorem faultOf_drw_of_above (h : n ≠ 0#4 ∧ 0xFFF < s.I.toNat + n.toNat - 1) :
    faultOf (.drw x y n) s = some .memOutOfRange := by
  refine if_pos ⟨Nat.pos_of_ne_zero fun zero => h.1 (BitVec.eq_of_toNat_eq zero), h.2⟩

/-- After `Dxyn` register 15 is the collision flag. -/
theorem readVF_effect_drw : (effect (.drw x y n) s).readV 0xF#4 = flagByte (s.drawSprite x y n).2 := by
  simp [effect, State.readV_writeVF]

theorem readV_effect_drw_other {r : Nibble} (hr : r ≠ 0xF#4) :
    (effect (.drw x y n) s).readV r = s.readV r := by
  simp [effect, State.readV_writeVF_other _ hr]

/-- The sprite covers the same places after the draw when the coordinate registers are not `VF`. -/
theorem spriteOn_effect_drw (hx : x ≠ 0xF#4) (hy : y ≠ 0xF#4) :
    (effect (.drw x y n) s).spriteOn x y n = s.spriteOn x y n := by
  funext r c
  unfold State.spriteOn
  rw [readV_effect_drw_other x y n hx, readV_effect_drw_other x y n hy]
  rfl

/-- `VF` is 1 exactly when a pixel under the sprite was on. -/
theorem readVF_effect_drw_eq_one_iff (h : s.displaySized) :
    (effect (.drw x y n) s).readV 0xF#4 = 1#8 ↔
      ∃ r c, s.onDisplay r c ∧ s.spriteOn x y n r c ∧ s.pixel r c = true := by
  rw [readVF_effect_drw, flagByte_eq_one_iff, (s.drawSprite_draws x y n h).collision]
  exact or_iff_right nofun

end

/-- Settles O40: the effect is one drawing under the sprite, and the guard is the table's. -/
theorem drawXorsSpriteAndReportsCollision : Obligations.DrawXorsSpriteAndReportsCollision := by
  refine fun x y n s h => ⟨decodeWord_encode (.drw x y n), fun fits => ?_, fun above =>
    ⟨_, exec_of_fault (faultOf_drw_of_above x y n above), s.raiseFault_latches _ _⟩⟩
  have draws := s.drawSprite_draws x y n h
  refine ⟨_, exec_of_no_fault (faultOf_drw_of_fits x y n fits), fun r c on => draws.pixel r c on.1 on.2, ?_,
    readVF_effect_drw_eq_one_iff x y n h, fun r hr => readV_effect_drw_other x y n hr, draws.sized, rfl,
    rfl, rfl⟩
  rw [readVF_effect_drw]
  exact flagByte_eq_zero_or_one _

/-- Settles O41: both draws toggle the same places, so each pixel is as before, and a pixel is on between
them exactly under the sprite when none was on at first. -/
theorem drawingTwiceRestoresDisplay : Obligations.DrawingTwiceRestoresDisplay := by
  intro x y n s h hx hy hc
  have first := s.drawSprite_draws x y n h
  have sized : (effect (.drw x y n) s).displaySized := first.sized
  have second := (effect (.drw x y n) s).drawSprite_draws x y n sized
  rw [spriteOn_effect_drw x y n hx hy] at second
  refine ⟨_, _, exec_of_no_fault hc, exec_of_no_fault hc, ?_, fun off => ?_⟩
  · refine Grid.eq_of_pixel second.sized h fun r c hr hw => ?_
    exact eq_of_toggled_twice (first.pixel r c hr hw) (second.pixel r c hr hw)
  · rw [readVF_effect_drw_eq_one_iff x y n sized, spriteOn_effect_drw x y n hx hy]
    refine exists_congr fun r => exists_congr fun c => and_congr_right fun on => ?_
    refine and_iff_left_of_imp fun under => ?_
    have toggled := (first.pixel r c on.1 on.2).2 under
    have wasOff : Grid.pixel s.disp r c = false := off r c on
    rw [wasOff] at toggled
    exact Bool.eq_true_of_not_eq_false toggled

end Sys2Proof.Machine
end
